-- ==== Sys2Proof/Word.lean ====
section
/-! DEFINITION. Bytes, 32-bit words and the plainest byte-sequence arithmetic of 00_scope.md R10 to R12. -/

namespace Sys2Proof

/-- A byte: 8 bits, bit 7 the most significant (R10). -/
abbrev Byte := BitVec 8

/-- A 32-bit unsigned value, the spec's u32 (R12). -/
abbrev Word := BitVec 32

end Sys2Proof
end

