-- ==== Sys2Proof/Syntax.lean ====
section
/-! DEFINITION. The record types of 10_state.md R40 to R43, the header view of R24, and Instr: one constructor per row
of spec/opcode_table.json. -/

namespace Sys2Proof

/-- One report block (R40). `packetsLost` is any integer, since PIN may present one out of range (R40, R194). -/
structure ReportBlock where
  ssrc : Word
  fractionLost : Byte
  packetsLost : Int
  highestSequence : Word
  jitter : Word
  lsr : Word
  dlsr : Word
deriving DecidableEq, Repr, Inhabited

/-- A Receiver Report (R41). -/
structure ReceiverReport where
  senderSsrc : Word
  reports : List ReportBlock
deriving DecidableEq, Repr, Inhabited

/-- A packet record (R42, R43): a Receiver Report, or the trimmed payload of a framed packet of another type. -/
inductive Packet where
  | receiverReport (r : ReceiverReport)
  | opaqueRecord (packetType : Byte) (payload : List Byte)
deriving DecidableEq, Repr, Inhabited

/-- The parsed common header (R24, R81). -/
structure Header where
  v : BitVec 2
  p : BitVec 1
  count : BitVec 5
  pt : Byte
  length : BitVec 16
deriving DecidableEq, Repr

/-- The opcode table. Packets carry the header fields that their row leaves free (R91); `illegalV0`, `illegalV1` and
`illegalV3` carry the fields that the header fetch still extracts (R99, R124); the internal operations have no encoding
and carry the operands their rule gives them (R92). -/
inductive Instr where
  | sr (p : BitVec 1) (count : BitVec 5) (length : BitVec 16)
  | rr (p : BitVec 1) (count : BitVec 5) (length : BitVec 16)
  | sdes (p : BitVec 1) (count : BitVec 5) (length : BitVec 16)
  | bye (p : BitVec 1) (count : BitVec 5) (length : BitVec 16)
  | rtpfb (p : BitVec 1) (count : BitVec 5) (length : BitVec 16)
  | psfb (p : BitVec 1) (count : BitVec 5) (length : BitVec 16)
  | unknown (p : BitVec 1) (count : BitVec 5) (pt : Byte) (length : BitVec 16)
  | illegalV0 (p : BitVec 1) (count : BitVec 5) (pt : Byte) (length : BitVec 16)
  | illegalV1 (p : BitVec 1) (count : BitVec 5) (pt : Byte) (length : BitVec 16)
  | illegalV3 (p : BitVec 1) (count : BitVec 5) (pt : Byte) (length : BitVec 16)
  | decode
  | encode
  | cmdReserved00
  | cmdReserved11
  | decodeRr (payload : List Byte) (count : BitVec 5)
  | encodeRr (pkt : ReceiverReport)
  | wrapRr (n : BitVec 5) (body : List Byte)
  | decodeBlock (b : Vector Byte 24)
  | encodeBlock (b : ReportBlock)
  | sext24 (r : Vector Byte 3)
  | trunc24 (v : Int)
deriving DecidableEq, Repr

end Sys2Proof
end

