-- ==== Sys2Proof/Config.lean ====
section
/-! DEFINITION. The parameters of 00_scope.md R9: the fixed constants, the instance parameters UNIMPL_POLICY and
BUF_MAX, and the free values that stand for store contents the spec leaves unspecified (R45, U13). -/

namespace Sys2Proof.Config

/-- `VERSION`, the only accepted header version (R9, R82). -/
@[simp] abbrev version : BitVec 2 := 2

/-- `HDR_BYTES` (R9). -/
@[simp] abbrev hdrBytes : Nat := 4

/-- `WORD_BYTES`, the unit of the header's length field (R9, R86). -/
@[simp] abbrev wordBytes : Nat := 4

/-- `BLOCK_BYTES` (R9). -/
@[simp] abbrev blockBytes : Nat := 24

/-- `MAX_REPORTS` (R9). -/
@[simp] abbrev maxReports : Nat := 31

/-- `LOST_MIN` (R9). -/
@[simp] abbrev lostMin : Int := -8388608

/-- `LOST_MAX` (R9). -/
@[simp] abbrev lostMax : Int := 8388607

/-- `PT_SR` (R9). -/
@[simp] abbrev ptSr : Byte := 200

/-- `PT_RR` (R9). -/
@[simp] abbrev ptRr : Byte := 201

/-- `PT_SDES` (R9). -/
@[simp] abbrev ptSdes : Byte := 202

/-- `PT_BYE` (R9). -/
@[simp] abbrev ptBye : Byte := 203

/-- `PT_RTPFB` (R9). -/
@[simp] abbrev ptRtpfb : Byte := 205

/-- `PT_PSFB` (R9). -/
@[simp] abbrev ptPsfb : Byte := 206

/-- `UNIMPL_POLICY` (R9, R34): what DECODE appends for a packet whose type is not 201. -/
inductive Policy where
  | drop
  | keepOpaque
deriving DecidableEq, Repr

/-- The instance parameters: a strap and a size, which no step writes (R34; R9, D8). `bufMax` is `none` for an instance
with no largest buffer, as D8 allows. -/
structure Cfg where
  policy : Policy
  bufMax : Option Nat
deriving DecidableEq, Repr

/-- `IBUF_LEN <= BUF_MAX` (R33, R37). -/
def Cfg.admits (c : Cfg) (n : Nat) : Bool :=
  match c.bufMax with
  | none => true
  | some b => n ≤ b

/-- `ADDR_W = ceil(log2(BUF_MAX + 1))` (R9), where BUF_MAX is bounded. -/
def Cfg.addrW (c : Cfg) : Option Nat :=
  c.bufMax.map fun b => if b = 0 then 0 else Nat.log2 b + 1

/-- The default instance: policy DROP (D6) and no largest buffer (DESIGN CHOICE, log 10). -/
def Cfg.default : Cfg := { policy := .drop, bufMax := none }

/-- FREE VALUE (R45, U13; log 6): the byte of IBUF at an address the host has not written since the last reset.
The first argument is the number of resets so far, the second the address. -/
opaque ibufUnwritten : Nat → Nat → Byte

/-- FREE VALUE (R45, U13; log 7): the record of PIN at an index the host has not written since the last reset.
The first argument is the number of resets so far, the second the index. -/
opaque pinUnwritten : Nat → Nat → Packet

end Sys2Proof.Config
end

