-- ==== Sys2Proof/WellFormed.lean ====
section
/-! DEFINITION. Which instruction terms the opcode table and the rules admit, and which record values are legal. -/

namespace Sys2Proof

/-- The six packet types that have a row of their own (R91). -/
def isNamedType (pt : Byte) : Bool :=
  pt == Config.ptSr || pt == Config.ptRr || pt == Config.ptSdes || pt == Config.ptBye || pt == Config.ptRtpfb
    || pt == Config.ptPsfb

/-- `packets_lost` in -2^23 .. 2^23 - 1 (R40, R196). -/
def ReportBlock.inRange (b : ReportBlock) : Bool :=
  Config.lostMin ≤ b.packetsLost && b.packetsLost ≤ Config.lostMax

/-- `0 <= len(reports) <= 31` (R41). -/
def ReceiverReport.fits (r : ReceiverReport) : Bool :=
  r.reports.length ≤ Config.maxReports

/-- A Receiver Report that ENCODE accepts without OutOfRange (R173). -/
def ReceiverReport.legal (r : ReceiverReport) : Bool :=
  r.fits && r.reports.all ReportBlock.inRange

/-- What DECODE may append under a policy (R40 to R43, R193): a legal Receiver Report, and under OPAQUE only, a record of
another type. -/
def Packet.legalUnder (policy : Config.Policy) : Packet → Bool
  | .receiverReport r => r.legal
  | .opaqueRecord pt _ => pt != Config.ptRr && policy == .keepOpaque

/-- The operands a row admits: UNKNOWN's type is none of the six named ones (R140); ENCODE_RR has at most 31 reports
(R165); WRAP_RR's body has `4 + 24n` bytes (R165, R167). Every other operand is legal at every value. -/
def Instr.wellFormed : Instr → Bool
  | .unknown _ _ pt _ => !isNamedType pt
  | .encodeRr pkt => pkt.fits
  | .wrapRr n body => body.length == 4 + Config.blockBytes * n.toNat
  | .sr _ _ _ => true
  | .rr _ _ _ => true
  | .sdes _ _ _ => true
  | .bye _ _ _ => true
  | .rtpfb _ _ _ => true
  | .psfb _ _ _ => true
  | .illegalV0 _ _ _ _ => true
  | .illegalV1 _ _ _ _ => true
  | .illegalV3 _ _ _ _ => true
  | .decode => true
  | .encode => true
  | .cmdReserved00 => true
  | .cmdReserved11 => true
  | .decodeRr _ _ => true
  | .decodeBlock _ => true
  | .encodeBlock _ => true
  | .sext24 _ => true
  | .trunc24 _ => true

end Sys2Proof
end

