-- ==== Sys2Proof/Decode.lean ====
section
/-! DEFINITION. The decoder of the two opcode spaces (30_encoding.md R81, R91, R92, R99) and the encoder, written from the
same tables. -/

namespace Sys2Proof

/-- Which bits select an instruction (R92). -/
inductive Format where
  /-- the 32-bit header word, format H -/
  | header
  /-- the 2-bit CMD code -/
  | hostCmd
  /-- no encoding -/
  | internal
deriving DecidableEq, Repr

/-- The `format` column of the opcode table (R92). -/
def Instr.format : Instr → Format
  | .sr _ _ _ => .header
  | .rr _ _ _ => .header
  | .sdes _ _ _ => .header
  | .bye _ _ _ => .header
  | .rtpfb _ _ _ => .header
  | .psfb _ _ _ => .header
  | .unknown _ _ _ _ => .header
  | .illegalV0 _ _ _ _ => .header
  | .illegalV1 _ _ _ _ => .header
  | .illegalV3 _ _ _ _ => .header
  | .decode => .hostCmd
  | .encode => .hostCmd
  | .cmdReserved00 => .hostCmd
  | .cmdReserved11 => .hostCmd
  | .decodeRr _ _ => .internal
  | .encodeRr _ => .internal
  | .wrapRr _ _ => .internal
  | .decodeBlock _ => .internal
  | .encodeBlock _ => .internal
  | .sext24 _ => .internal
  | .trunc24 _ => .internal

/-- Field extraction of R81 and R124: `version = byte0 >> 6`, `padding = (byte0 >> 5) & 1`, `count = byte0 & 0x1F`,
`packet_type = byte1`, `length = be_u16` of bytes 2 and 3. -/
def Header.ofBytes (h0 h1 h2 h3 : Byte) : Header :=
  { v := (h0 >>> 6).setWidth 2
    p := ((h0 >>> 5) &&& 1).setWidth 1
    count := (h0 &&& 0x1F).setWidth 5
    pt := h1
    length := h2 ++ h3 }

/-- Format H laid out as four bytes, most significant first (R81, R51). -/
def Header.toBytes (h : Header) : List Byte :=
  [h.v ++ h.p ++ h.count, h.pt, h.length.extractLsb' 8 8, h.length.extractLsb' 0 8]

/-- The opcode map of R91: select on the type byte once the version is 2. -/
def selectType (p : BitVec 1) (count : BitVec 5) (pt : Byte) (length : BitVec 16) : Instr :=
  if pt = Config.ptSr then .sr p count length
  else if pt = Config.ptRr then .rr p count length
  else if pt = Config.ptSdes then .sdes p count length
  else if pt = Config.ptBye then .bye p count length
  else if pt = Config.ptRtpfb then .rtpfb p count length
  else if pt = Config.ptPsfb then .psfb p count length
  else .unknown p count pt length

/-- Every header view is one row of the table (R91, R99). -/
def Header.toInstr (h : Header) : Instr :=
  match h.v with
  | 0 => .illegalV0 h.p h.count h.pt h.length
  | 1 => .illegalV1 h.p h.count h.pt h.length
  | 2 => selectType h.p h.count h.pt h.length
  | 3 => .illegalV3 h.p h.count h.pt h.length

/-- Why bytes are no header. -/
inductive DecodeReject where
  /-- fewer than four bytes: there is no header to decode (R123) -/
  | headerIncomplete
deriving DecidableEq, Repr

/-- Decodes the packet header at the front of a byte sequence. The payload stays in the buffer: a packet's length is in
its header (R102), and the packet step reads the payload itself (R128). -/
def decode : List Byte → Except DecodeReject Instr
  | h0 :: h1 :: h2 :: h3 :: _ => .ok (Header.ofBytes h0 h1 h2 h3).toInstr
  | _ => .error .headerIncomplete

/-- Decodes the second opcode space, the 2-bit CMD code (R30, R92). -/
def decodeCmd (code : BitVec 2) : Instr :=
  match code with
  | 0 => .cmdReserved00
  | 1 => .decode
  | 2 => .encode
  | 3 => .cmdReserved11

/-- The header view of an instruction of format H (R91, R99). -/
def Instr.header : Instr → Option Header
  | .sr p count length => some { v := Config.version, p, count, pt := Config.ptSr, length }
  | .rr p count length => some { v := Config.version, p, count, pt := Config.ptRr, length }
  | .sdes p count length => some { v := Config.version, p, count, pt := Config.ptSdes, length }
  | .bye p count length => some { v := Config.version, p, count, pt := Config.ptBye, length }
  | .rtpfb p count length => some { v := Config.version, p, count, pt := Config.ptRtpfb, length }
  | .psfb p count length => some { v := Config.version, p, count, pt := Config.ptPsfb, length }
  | .unknown p count pt length => some { v := Config.version, p, count, pt, length }
  | .illegalV0 p count pt length => some { v := 0, p, count, pt, length }
  | .illegalV1 p count pt length => some { v := 1, p, count, pt, length }
  | .illegalV3 p count pt length => some { v := 3, p, count, pt, length }
  | .decode => none
  | .encode => none
  | .cmdReserved00 => none
  | .cmdReserved11 => none
  | .decodeRr _ _ => none
  | .encodeRr _ => none
  | .wrapRr _ _ => none
  | .decodeBlock _ => none
  | .encodeBlock _ => none
  | .sext24 _ => none
  | .trunc24 _ => none

/-- The CMD code of a host command (R30, R92). -/
def Instr.cmdCode : Instr → Option (BitVec 2)
  | .cmdReserved00 => some 0
  | .decode => some 1
  | .encode => some 2
  | .cmdReserved11 => some 3
  | .sr _ _ _ => none
  | .rr _ _ _ => none
  | .sdes _ _ _ => none
  | .bye _ _ _ => none
  | .rtpfb _ _ _ => none
  | .psfb _ _ _ => none
  | .unknown _ _ _ _ => none
  | .illegalV0 _ _ _ _ => none
  | .illegalV1 _ _ _ _ => none
  | .illegalV3 _ _ _ _ => none
  | .decodeRr _ _ => none
  | .encodeRr _ => none
  | .wrapRr _ _ => none
  | .decodeBlock _ => none
  | .encodeBlock _ => none
  | .sext24 _ => none
  | .trunc24 _ => none

/-- The words of an instruction: the four header bytes of a packet (R81), one byte that holds a CMD code (R30), nothing
for an internal operation (R92). -/
def encode (i : Instr) : List Byte :=
  match i.header, i.cmdCode with
  | some h, _ => h.toBytes
  | none, some c => [c.setWidth 8]
  | none, none => []

/-- Decodes bytes in the opcode space a format names. -/
def decodeAs : Format → List Byte → Option Instr
  | .header, bytes => (decode bytes).toOption
  | .hostCmd, [b] => if b < 4 then some (decodeCmd (b.setWidth 2)) else none
  | .hostCmd, _ => none
  | .internal, _ => none

/-- The four bytes of a header word, most significant first (R51, R81). -/
def bytesOfWord (w : Nat) : List Byte :=
  [BitVec.ofNat 8 (w / 2 ^ 24), BitVec.ofNat 8 (w / 2 ^ 16), BitVec.ofNat 8 (w / 2 ^ 8), BitVec.ofNat 8 w]

/-- A row of 32 bits is a header word; a shorter row is a CMD code, which the table numbers from bit 0 (R92; log 31). -/
def decodeTableWord (nbits w : Nat) : Option Instr :=
  if 32 ≤ nbits then decodeAs .header (bytesOfWord w)
  else if 0 < nbits ∧ w < 4 then decodeAs .hostCmd [BitVec.ofNat 8 w]
  else none

end Sys2Proof
end

