-- ==== Sys2Proof/Machine/State.lean ====
section
/-! DEFINITION. The state of RCPF (10_state.md), the reasons a step can stop, and the state after reset (R45). -/

namespace Sys2Proof.Machine

/-- The values of STATE (R31). -/
inductive Status where
  | idle
  | busy
  | done
  | error
deriving DecidableEq, Repr

/-- The five error kinds (60_exceptions.md R220, R221). -/
inductive ErrorKind where
  | truncated
  | invalidVersion
  | invalidPadding
  | invalidReceiverReportLength
  | outOfRange
deriving DecidableEq, Repr

/-- ERR_KIND, ERR_OFFSET, ERR_PKT, ERR_BLK (R32). No kind is code 0, "no error". -/
structure ErrRegs where
  kind : Option ErrorKind
  offset : Nat
  pkt : Nat
  blk : BitVec 5
deriving DecidableEq, Repr

/-- `ERR_* <- 0` (R45, R46). -/
def ErrRegs.zero : ErrRegs := { kind := none, offset := 0, pkt := 0, blk := 0 }

/-- The working registers (R22 to R26), and `k`, the packet index of ENCODE's loop (R170; log 13). `none` is the spec's own
"holds no value" (R28, R45; log 4), which the spec says of the registers of R22 to R26 and of no other. HDR.* are one
register group: "All five are written together" (R24). -/
structure Work where
  cur : Option Nat
  pktStart : Option Nat
  pktIndex : Option Nat
  hdr : Option Header
  payStart : Option Nat
  payEnd : Option Nat
  blkIndex : Option (BitVec 5)
  k : Nat
deriving DecidableEq, Repr

/-- No working register of R22 to R26 holds a value (R28, R45), and K is 0 (DESIGN CHOICE, log 13). -/
def Work.blank : Work :=
  { cur := none, pktStart := none, pktIndex := none, hdr := none, payStart := none, payEnd := none, blkIndex := none,
    k := 0 }

/-- Names of the working registers of R22 to R26, for the fault of R28. -/
inductive WorkReg where
  | cur
  | pktStart
  | pktIndex
  | hdr
  | payStart
  | payEnd
  | blkIndex
deriving DecidableEq, Repr

/-- What an internal operation hands back to its caller (R92, R104; log 11). -/
inductive CallResult where
  | report (r : ReceiverReport)
  | block (b : ReportBlock)
  | bytes (l : List Byte)
  | int (v : Int)
deriving DecidableEq, Repr

/-- What the host can ask for (R30 to R39, R260; log 2). The spec names no read of CMD, of CFG or of a working register, and
none of a byte of IBUF or a record of PIN; of the registers of R33 that the host writes, the model lets it read back
IBUF_LEN and PIN_COUNT (DESIGN CHOICE, log 33). -/
inductive HostRequest where
  /-- "the host waits for STATE != BUSY" (R35, R36) -/
  | waitNotBusy
  /-- writes bytes of IBUF from an offset on (R35) -/
  | writeIbuf (offset : Nat) (bytes : List Byte)
  /-- writes IBUF_LEN (R35) -/
  | writeIbufLen (n : Nat)
  /-- writes one record of PIN (R36) -/
  | writePin (index : Nat) (pkt : Packet)
  /-- writes PIN_COUNT (R36) -/
  | writePinCount (n : Nat)
  /-- writes CMD (R30) -/
  | writeCmd (code : BitVec 2)
  | readState
  | readErrKind
  | readErrOffset
  | readErrPkt
  | readErrBlk
  | readOutCount
  /-- reads back IBUF_LEN (DESIGN CHOICE, log 33) -/
  | readIbufLen
  /-- reads back PIN_COUNT (DESIGN CHOICE, log 33) -/
  | readPinCount
  /-- reads one record of OUT (R35) -/
  | readOut (index : Nat)
  | readObufLen
  /-- reads one byte of OBUF (R36) -/
  | readObuf (offset : Nat)
  /-- hardware reset (R260) -/
  | hardwareReset
deriving DecidableEq, Repr

/-- What a host read returns. -/
inductive HostValue where
  | number (n : Nat)
  | record (p : Packet)
  | byte (b : Byte)
deriving DecidableEq, Repr

/-- A byte store: address and byte pairs in canonical form (20_memory.md R50). -/
abbrev Memory := List Host.Cell

/-- The state of RCPF. Every field is named in INVENTORY.md with the rule that gives it. -/
structure State where
  /-- CMD (R30) -/
  cmd : BitVec 2
  /-- STATE (R31) -/
  status : Status
  /-- ERR_* (R32) -/
  err : ErrRegs
  /-- IBUF_LEN (R33) -/
  ibufLen : Nat
  /-- OUT_COUNT (R33) -/
  outCount : Nat
  /-- PIN_COUNT (R33) -/
  pinCount : Nat
  /-- OBUF_LEN (R33) -/
  obufLen : Nat
  /-- CFG.UNIMPL_POLICY and BUF_MAX (R34, R9) -/
  cfg : Config.Cfg
  /-- IBUF, the bytes the host has written (R38) -/
  ibuf : Memory
  /-- OBUF (R38) -/
  obuf : Memory
  /-- OUT (R39) -/
  out : List Packet
  /-- PIN, the records the host has written (R39) -/
  pin : List (Nat × Packet)
  /-- the working registers (R22 to R26) -/
  work : Work
  /-- MODEL: the result of an internal operation (log 11) -/
  ret : Option CallResult
  /-- MODEL: how many resets have happened (log 8) -/
  resetCount : Nat
  /-- MODEL: the host's requests to come (log 2) -/
  host : List HostRequest
  /-- MODEL: the last value the host read (log 2) -/
  hostData : Option HostValue
deriving DecidableEq, Repr

/-- The four stores (20_memory.md R50). -/
inductive StoreName where
  | ibuf
  | obuf
  | out
  | pin
deriving DecidableEq, Repr

/-- What stops the machine other than the spec's own errors, which are next states (R230). All are safe: the model stops
where the spec gives no behaviour. -/
inductive Fault where
  /-- Raised by a rule that reads a working register of R22 to R26 which holds no value: "a model that exposes the registers
  must make such a read a fault, not a zero" (R28; 93_implementation_defined.md U13). Safe: the case cannot arise from the
  rules. -/
  | noValue (r : WorkReg)
  /-- Raised by `memRead` for a run that is not inside IBUF_LEN (R56). Safe. -/
  | memReadOutOfRange (offset n : Nat)
  /-- Raised by a host access to an index that the store does not have (R38, R50, R58). Safe. -/
  | noSuchAddress (store : StoreName) (index : Nat)
  /-- Raised by the sequencer when STATE is BUSY and CMD names no operation; no run reaches this (R30, R31). Safe. -/
  | noOperation
deriving DecidableEq, Repr

/-- A request the hardware gives no meaning to (R37, R171, R273). All are safe. -/
inductive Refusal where
  /-- an instruction that has no meaning in this model yet; raised by `exec` only -/
  | notModelled (mnemonic : String)
  /-- a CMD write of a reserved code (R37); raised by CMD_RESERVED_00 and CMD_RESERVED_11 -/
  | reservedCommand
  /-- a CMD write while BUSY (R37); raised by DECODE and ENCODE -/
  | commandWhileBusy
  /-- a host access to a store or register while BUSY (R31, R37, R270, R273); raised by the host port -/
  | hostAccessWhileBusy
  /-- a read of OUT or OBUF outside DONE, or of the store the last operation did not produce (R37); raised by the host port -/
  | resultNotReadable
  /-- IBUF_LEN over BUF_MAX (R37); raised by the host port and by DECODE -/
  | ibufLenOverMax
  /-- ENCODE of an Opaque record at this index of PIN (R171); raised by ENCODE -/
  | encodeOpaque (index : Nat)
  /-- ENCODE of a Receiver Report with more than 31 reports (R171); raised by ENCODE and ENCODE_RR -/
  | encodeTooManyReports (index : Nat)
deriving DecidableEq, Repr

/-- The state after a hardware reset (R45), for a strap value and the fields that reset does not touch. IBUF_LEN and
PIN_COUNT are a DESIGN CHOICE (log 5). -/
def State.resetWith (cfg : Config.Cfg) (resetCount : Nat) (host : List HostRequest) (hostData : Option HostValue) : State :=
  { cmd := 0
    status := .idle
    err := ErrRegs.zero
    ibufLen := 0
    outCount := 0
    pinCount := 0
    obufLen := 0
    cfg := cfg
    ibuf := []
    obuf := []
    out := []
    pin := []
    work := Work.blank
    ret := none
    resetCount := resetCount
    host := host
    hostData := hostData }

/-- The machine right after its first reset, with the default instance parameters (R45, D6; logs 5, 9, 10). -/
def State.reset : State := State.resetWith Config.Cfg.default 0 [] none

end Sys2Proof.Machine
end

