-- ==== Sys2Proof/Machine/Operands.lean ====
section
/-! DEFINITION. How operands are assembled from bytes and taken apart into bytes (00_scope.md R11, R12; 30_encoding.md
R90; 41_rr_packet_codec.md R166). -/

namespace Sys2Proof.Machine

/-- `B[a ..< a+n]` (R11). -/
def slice (b : List Byte) (a n : Nat) : List Byte := (b.drop a).take n

/-- The unsigned big-endian value of a byte sequence: `be_u16`, `be_u24` and `be_u32` at lengths 2, 3 and 4 (R12, R51). -/
def beNat (b : List Byte) : Nat := b.foldl (fun acc x => acc * 256 + x.toNat) 0

/-- `be_u32` as a u32 (R12). -/
def beU32 (b : List Byte) : Word := BitVec.ofNat 32 (beNat b)

/-- A one-byte field (R88). -/
def beU8 (b : List Byte) : Byte := BitVec.ofNat 8 (beNat b)

/-- `be_bytes_32(v)` (R166): `v >> 24, (v >> 16) & 0xFF, (v >> 8) & 0xFF, v & 0xFF`. -/
def beBytes32 (v : Word) : List Byte :=
  [v.extractLsb' 24 8, v.extractLsb' 16 8, v.extractLsb' 8 8, v.extractLsb' 0 8]

/-- `be_bytes` of a 16-bit value, high byte first (R167, R51). -/
def beBytes16 (v : BitVec 16) : List Byte := [v.extractLsb' 8 8, v.extractLsb' 0 8]

/-- `L = HDR.LENGTH * 4`, the payload size in bytes (R86, R90), exact. -/
def payloadSize (h : Header) : Nat := h.length.toNat * Config.wordBytes

/-- The size `4 + 24 * count` of an RR body (R87, R90). -/
def rrBodySize (count : BitVec 5) : Nat := 4 + Config.blockBytes * count.toNat

end Sys2Proof.Machine
end

