-- ==== Sys2Proof/Machine/Flags.lean ====
section
/-! DEFINITION. The one data flag HDR.P (10_state.md R27) and the host-visible codes of STATE (R31) and ERR_KIND
(60_exceptions.md R221). There are no condition codes (R27). -/

namespace Sys2Proof.Machine

/-- HDR.P = 1: the payload ends with a padding trailer (R83). -/
def paddingFlag (h : Header) : Bool := h.p == 1

/-- The code the host reads from STATE (R31). -/
def Status.code : Status → BitVec 2
  | .idle => 0
  | .busy => 1
  | .done => 2
  | .error => 3

/-- The code of an error kind (R221). -/
def ErrorKind.code : ErrorKind → BitVec 3
  | .truncated => 1
  | .invalidVersion => 2
  | .invalidPadding => 3
  | .invalidReceiverReportLength => 4
  | .outOfRange => 5

/-- The code the host reads from ERR_KIND: 0 when there is no error (R32, R221). -/
def ErrRegs.kindCode (e : ErrRegs) : BitVec 3 :=
  match e.kind with
  | none => 0
  | some k => k.code

/-- The host is kept off every store and register but STATE (R31, R37). -/
def State.isBusy (s : State) : Bool := s.status == .busy

end Sys2Proof.Machine
end

