-- ==== Sys2Proof/Machine/Ops.lean ====
section
/-! DEFINITION. The shared operations: the stores (20_memory.md), reading working registers (10_state.md R28), raising an
error (60_exceptions.md R230), and the start and end of an operation (10_state.md R46, 40_compound_reader.md R120). -/

namespace Sys2Proof.Machine

/-- The entry of a store at an index, if one is listed. -/
def Store.read {α : Type} : List (Nat × α) → Nat → Option α
  | [], _ => none
  | (b, v) :: m, a => if a = b then some v else Store.read m a

/-- The entries of a run of values from an index on. -/
def Store.cells {α : Type} : Nat → List α → List (Nat × α)
  | _, [] => []
  | a, v :: vs => (a, v) :: Store.cells (a + 1) vs

/-- Writes a run of values at consecutive indexes from `a` on. -/
def Store.write {α : Type} (m : List (Nat × α)) (a : Nat) (vs : List α) : List (Nat × α) :=
  m.filter (fun c => c.1 < a) ++ Store.cells a vs ++ m.filter (fun c => a + vs.length ≤ c.1)

/-- Canonical form: indexes strictly rising. An unlisted index has no value of its own, so no entry can equal it. -/
abbrev Store.wf {α : Type} (m : List (Nat × α)) : Prop := m.Pairwise (fun x y => x.1 < y.1)

/-- The canonical form of a byte store. -/
abbrev Memory.wf (m : Memory) : Prop := Store.wf m

/-- One byte of IBUF: what the host wrote last, and a free value where it has written nothing (R45, U13; log 6). -/
def ibufByte (s : State) (a : Nat) : Byte :=
  match Store.read s.ibuf a with
  | some b => b
  | none => Config.ibufUnwritten s.resetCount a

/-- One record of PIN: what the host wrote last, and a free value where it has written nothing (R45, U13; log 7). -/
def pinRecord (s : State) (k : Nat) : Packet :=
  match Store.read s.pin k with
  | some p => p
  | none => Config.pinUnwritten s.resetCount k

/-- `IBUF[a ..< a+n]` (R11). -/
def ibufBytes (s : State) (a n : Nat) : List Byte := (List.range n).map fun i => ibufByte s (a + i)

/-- `MemRead(IBUF, a, n)`, defined only for `a + n <= IBUF_LEN` (R13, R56). -/
def memRead (s : State) (a n : Nat) : Except Fault (List Byte) :=
  if a + n ≤ s.ibufLen then .ok (ibufBytes s a n)
  else .error (.memReadOutOfRange a n)

/-- `PIN[0 ..< PIN_COUNT]`. -/
def pinRecords (s : State) : List Packet := (List.range s.pinCount).map (pinRecord s)

/-- How a sub-step of a rule ends: the pseudocode goes on; an error was raised and "nothing after it in the pseudocode
runs" (R13); or the model stops. -/
inductive SubStep where
  | go (s : State)
  | raised (s : State)
  | stop (f : Fault)
deriving DecidableEq, Repr

/-- Runs the next sub-step of a rule, unless an error was raised. -/
def SubStep.andThen (r : SubStep) (next : State → SubStep) : SubStep :=
  match r with
  | .go s => next s
  | .raised s => .raised s
  | .stop f => .stop f

/-- The outcome of a rule whose sub-steps have all run. -/
def SubStep.outcome : SubStep → Host.Outcome State Fault Refusal
  | .go s => .next s
  | .raised s => .next s
  | .stop f => .fault f

/-- Reads a working register; one that holds no value faults (R28). -/
def need {α : Type} (r : WorkReg) (v : Option α) (use : α → SubStep) : SubStep :=
  match v with
  | some x => use x
  | none => .stop (.noValue r)

/-- Uses the bytes of a MemRead. -/
def needBytes (v : Except Fault (List Byte)) (use : List Byte → SubStep) : SubStep :=
  match v with
  | .ok b => use b
  | .error f => .stop f

/-- Where an error is located (R222 to R226): a packet of IBUF, or a block of a packet of PIN. -/
inductive Place where
  | inIbuf (offset pkt : Nat)
  | inPin (pkt : Nat) (blk : BitVec 5)
deriving DecidableEq, Repr

/-- Taking an exception: `raise K(...)` (R230). The operation stops, its partial result is discarded, OUT_COUNT and OBUF_LEN
are both "0 in `ERROR`" (R33), ERR_* name the kind and the place, and STATE becomes ERROR. There is no return from it (R232):
the next command starts afresh with `beginDecode` or `beginEncode`. -/
def raiseError (k : ErrorKind) (place : Place) (s : State) : State :=
  match place with
  | .inIbuf offset pkt =>
    { s with status := .error, err := { kind := some k, offset := offset, pkt := pkt, blk := 0 }, out := [], outCount := 0,
             obufLen := 0 }
  | .inPin pkt blk =>
    { s with status := .error, err := { kind := some k, offset := 0, pkt := pkt, blk := blk }, outCount := 0, obufLen := 0 }

/-- `raise K(PKT_START, PKT_INDEX)`, the form of every DECODE error (R222 to R225). -/
def raiseHere (k : ErrorKind) (s : State) : SubStep :=
  need .pktStart s.work.pktStart fun offset =>
    need .pktIndex s.work.pktIndex fun pkt => .raised (raiseError k (.inIbuf offset pkt) s)

/-- `raise OutOfRange(pkt index, BLK_INDEX)`, the ENCODE error (R226). -/
def raiseOutOfRange (s : State) : SubStep :=
  need .blkIndex s.work.blkIndex fun blk => .raised (raiseError .outOfRange (.inPin s.work.k blk) s)

/-- The start of a DECODE (R46): CUR and PKT_INDEX are 0, OUT is empty, ERR_* are 0; no other working register of
R22 to R26 holds a value (R28), and K is 0 (log 13). STATE becomes BUSY (R31). -/
def beginDecode (s : State) : State :=
  { s with cmd := 1, status := .busy, err := ErrRegs.zero, out := [], outCount := 0,
           work := { Work.blank with cur := some 0, pktIndex := some 0 } }

/-- The start of an ENCODE (R46): OBUF_LEN and ERR_* are 0; no working register of R22 to R26 holds a value (R28),
and K is 0 (log 13). STATE becomes BUSY. -/
def beginEncode (s : State) : State :=
  { s with cmd := 2, status := .busy, err := ErrRegs.zero, obufLen := 0, work := Work.blank }

/-- The end of a DECODE: `STATE <- DONE ; OUT_COUNT <- len(OUT)` (R120). -/
def finishDecode (s : State) : State := { s with status := .done, outCount := s.out.length }

/-- The end of an ENCODE: `MemWrite(OBUF, 0, len(acc), acc) ; OBUF_LEN <- len(acc) ; STATE <- DONE` (R170). -/
def finishEncode (acc : List Byte) (s : State) : State :=
  { s with status := .done, obuf := Store.write s.obuf 0 acc, obufLen := acc.length }

/-- A hardware reset at any time (R260): the state of R45. The strap is not affected, the host's own fields stay, and the
contents of IBUF and PIN are unspecified afresh (log 25). -/
def hardwareReset (s : State) : State := State.resetWith s.cfg (s.resetCount + 1) s.host s.hostData

/-- BLK_INDEX after a loop `for BLK_INDEX in 0, 1, ..., n - 1`: the last index, and unchanged by an empty loop (R162, R166;
log 23). -/
def blkAfter (old : Option (BitVec 5)) (n : Nat) : Option (BitVec 5) :=
  if n = 0 then old else some (BitVec.ofNat 5 (n - 1))

end Sys2Proof.Machine
end

