-- ==== Sys2Proof/Machine/Codec.lean ====
section
/-! DEFINITION. The codec functions that several instructions share: the report block codec and its signed 24-bit counter
(42_report_block_codec.md), the RR body codec and the header wrap (41_rr_packet_codec.md). -/

namespace Sys2Proof.Machine

/-- SEXT24 (R192): prepend `0xFF` if the top bit of the first byte is 1, `0x00` otherwise, and read the 32 bits as a
signed integer. -/
def sext24 (r : List Byte) : Int :=
  let ext : Byte := if beNat (slice r 0 1) >>> 7 = 1 then 0xFF else 0x00
  (BitVec.ofNat 32 (beNat (ext :: r))).toInt

/-- TRUNC24 (R195, R196): the range test, then the 32-bit two's-complement pattern with its leading byte dropped. `none`
is OutOfRange. -/
def trunc24 (v : Int) : Option (List Byte) :=
  if Config.lostMin ≤ v ∧ v ≤ Config.lostMax then
    let w : BitVec 32 := BitVec.ofInt 32 v
    some [w.extractLsb' 16 8, w.extractLsb' 8 8, w.extractLsb' 0 8]
  else none

/-- DECODE_BLOCK (R191). -/
def decodeBlock (b : List Byte) : ReportBlock :=
  { ssrc := beU32 (slice b 0 4)
    fractionLost := beU8 (slice b 4 1)
    packetsLost := sext24 (slice b 5 3)
    highestSequence := beU32 (slice b 8 4)
    jitter := beU32 (slice b 12 4)
    lsr := beU32 (slice b 16 4)
    dlsr := beU32 (slice b 20 4) }

/-- ENCODE_BLOCK (R194). `none` is OutOfRange, raised before any byte of the block. -/
def encodeBlock (b : ReportBlock) : Option (List Byte) :=
  match trunc24 b.packetsLost with
  | none => none
  | some l3 =>
    some (beBytes32 b.ssrc ++ [b.fractionLost] ++ l3 ++ beBytes32 b.highestSequence ++ beBytes32 b.jitter
      ++ beBytes32 b.lsr ++ beBytes32 b.dlsr)

/-- DECODE_RR (R161, R162). `none` is InvalidReceiverReportLength: the trimmed payload is not exactly `4 + 24 * count`
bytes. -/
def decodeRr (payload : List Byte) (count : BitVec 5) : Option ReceiverReport :=
  if payload.length = rrBodySize count then
    some { senderSsrc := beU32 (slice payload 0 4)
           reports := (List.range count.toNat).map fun i =>
             decodeBlock (slice payload (4 + Config.blockBytes * i) Config.blockBytes) }
  else none

/-- The block loop of ENCODE_RR (R166) from block `i` on. `error j` is OutOfRange at block `j`, the first whose counter is
out of range. -/
def encodeBlocks : Nat → List ReportBlock → Except Nat (List Byte)
  | _, [] => .ok []
  | i, b :: bs =>
    match encodeBlock b with
    | none => .error i
    | some l =>
      match encodeBlocks (i + 1) bs with
      | .error j => .error j
      | .ok rest => .ok (l ++ rest)

/-- ENCODE_RR (R166): `sender_ssrc`, then every block in sequence order. -/
def encodeRr (pkt : ReceiverReport) : Except Nat (List Byte) :=
  match encodeBlocks 0 pkt.reports with
  | .error j => .error j
  | .ok body => .ok (beBytes32 pkt.senderSsrc ++ body)

/-- WRAP_RR (R167): the header with version 2, no padding, `count = n`, type 201 and `length = 1 + 6n`, then the body. -/
def wrapRr (n : BitVec 5) (body : List Byte) : List Byte :=
  [0x80 ||| n.setWidth 8, 0xC9] ++ beBytes16 (BitVec.ofNat 16 (1 + 6 * n.toNat)) ++ body

/-- The packet loop of ENCODE (R170) from packet `k` on, over Receiver Reports that R171 admits. `error (k, j)` is
OutOfRange at block `j` of packet `k`. -/
def encodePackets : Nat → List ReceiverReport → Except (Nat × Nat) (List Byte)
  | _, [] => .ok []
  | k, pkt :: pkts =>
    match encodeRr pkt with
    | .error j => .error (k, j)
    | .ok body =>
      match encodePackets (k + 1) pkts with
      | .error e => .error e
      | .ok rest => .ok (wrapRr (BitVec.ofNat 5 pkt.reports.length) body ++ rest)

/-- The Receiver Reports of a sequence that ENCODE accepts, or the refusal of the first record it does not (R171). -/
def acceptPackets : Nat → List Packet → Except Refusal (List ReceiverReport)
  | _, [] => .ok []
  | k, .opaqueRecord _ _ :: _ => .error (.encodeOpaque k)
  | k, .receiverReport r :: ps =>
    if r.fits then
      match acceptPackets (k + 1) ps with
      | .error e => .error e
      | .ok rs => .ok (r :: rs)
    else .error (.encodeTooManyReports k)

/-- BLK_INDEX after the blocks of a sequence of packets have been encoded (R26, R166). -/
def blkAfterAll (old : Option (BitVec 5)) (pkts : List ReceiverReport) : Option (BitVec 5) :=
  pkts.foldl (fun b r => blkAfter b r.reports.length) old

/-- `k` after the packet loop of R170: the last index, and unchanged by an empty loop. -/
def kAfter (old n : Nat) : Nat := if n = 0 then old else n - 1

end Sys2Proof.Machine
end

