-- ==== Sys2Proof/Machine/Commands.lean ====
section
/-! DEFINITION. The meaning of the four CMD codes (10_state.md R30, R37) and the run of an ENCODE (41_rr_packet_codec.md
R170 to R172). The run of a DECODE is the packet steps of Machine/Packets.lean, fetched by Machine/Fetch.lean. -/

namespace Sys2Proof.Machine

/-- DECODE (R30, R46, R120): starts a DECODE unless BUSY or IBUF_LEN is over BUF_MAX (R37). The loop of R120 is run by the
following steps. -/
def execDecode (s : State) : Host.Outcome State Fault Refusal :=
  if s.isBusy then .refused .commandWhileBusy
  else if s.cfg.admits s.ibufLen then .next (beginDecode s)
  else .refused .ibufLenOverMax

/-- ENCODE (R30, R46, R170): starts an ENCODE unless BUSY or PIN holds a record that R171 refuses; "a refused request
changes no state and starts no operation" (R37; log 16). The loop of R170 is run by the following step. -/
def execEncode (s : State) : Host.Outcome State Fault Refusal :=
  if s.isBusy then .refused .commandWhileBusy
  else
    match acceptPackets 0 (pinRecords s) with
    | .error e => .refused e
    | .ok _ => .next (beginEncode s)

/-- The reserved command code 00 (R37). -/
def execCmdReserved00 (_s : State) : Host.Outcome State Fault Refusal := .refused .reservedCommand

/-- The reserved command code 11 (R37). -/
def execCmdReserved11 (_s : State) : Host.Outcome State Fault Refusal := .refused .reservedCommand

/-- The run of an ENCODE (R170, R172): every packet in order, all or nothing. -/
def encodeRun (s : State) : Host.Outcome State Fault Refusal :=
  match acceptPackets 0 (pinRecords s) with
  | .error e => .refused e
  | .ok pkts =>
    match encodePackets 0 pkts with
    | .error (k, j) =>
      let blk := BitVec.ofNat 5 j
      .next (raiseError .outOfRange (.inPin k blk) { s with work := { s.work with k := k, blkIndex := some blk } })
    | .ok acc =>
      .next (finishEncode acc
        { s with work := { s.work with k := kAfter s.work.k pkts.length, blkIndex := blkAfterAll s.work.blkIndex pkts } })

end Sys2Proof.Machine
end

