-- ==== Sys2Proof/Machine/Packets.lean ====
section
/-! DEFINITION. The packet step of DECODE (40_compound_reader.md R123 to R141), rule by rule, and the meaning of every
packet type and of every illegal version. -/

namespace Sys2Proof.Machine

/-- Step 1 (R123): PKT_START, and at least four bytes remain. -/
def headerPresent (s : State) : SubStep :=
  need .cur s.work.cur fun c =>
    let s1 := { s with work := { s.work with pktStart := some c } }
    if Config.hdrBytes ≤ s.ibufLen - c then .go s1 else raiseHere .truncated s1

/-- Step 2 (R124): HDR.* take the fields of the fetched header. -/
def latchHeader (h : Header) (s : State) : SubStep :=
  .go { s with work := { s.work with hdr := some h } }

/-- Step 3 (R125): the version is 2. CUR has not moved. -/
def checkVersion (s : State) : SubStep :=
  need .hdr s.work.hdr fun h => if h.v = Config.version then .go s else raiseHere .invalidVersion s

/-- Step 4a (R126): CUR passes the header. -/
def passHeader (s : State) : SubStep :=
  need .cur s.work.cur fun c => .go { s with work := { s.work with cur := some (c + Config.hdrBytes) } }

/-- Steps 4b and 5 (R127, R128): the payload lies inside the buffer; PAY_START, PAY_END and CUR delimit and pass it. The
sum is exact (R271). -/
def slicePayload (s : State) : SubStep :=
  need .cur s.work.cur fun c =>
    need .hdr s.work.hdr fun h =>
      let payloadEnd := c + payloadSize h
      if payloadEnd ≤ s.ibufLen then
        .go { s with work := { s.work with payStart := some c, payEnd := some payloadEnd, cur := some payloadEnd } }
      else raiseHere .truncated s

/-- Step 6 (R129 to R131): with HDR.P set, the last payload byte `p` must satisfy `0 < p <= L`, and PAY_END moves back by
`p`. An empty payload has no such byte: InvalidPadding with nothing read (D7, R272). -/
def stripPadding (s : State) : SubStep :=
  need .hdr s.work.hdr fun h =>
    if paddingFlag h then
      need .payStart s.work.payStart fun a =>
        need .payEnd s.work.payEnd fun e =>
          let size := e - a
          if 0 < size then
            needBytes (memRead s (e - 1) 1) fun b =>
              let p := beNat b
              if 0 < p ∧ p ≤ size then .go { s with work := { s.work with payEnd := some (e - p) } }
              else raiseHere .invalidPadding s
          else raiseHere .invalidPadding s
    else .go s

/-- Hands the trimmed payload `IBUF[PAY_START ..< PAY_END]` to a packet codec (R133, R25). -/
def withPayload (s : State) (use : List Byte → SubStep) : SubStep :=
  need .payStart s.work.payStart fun a =>
    need .payEnd s.work.payEnd fun e => needBytes (memRead s a (e - a)) use

/-- `append(OUT, rec)` (R13, R39). -/
def appendOut (p : Packet) (s : State) : SubStep := .go { s with out := s.out ++ [p] }

/-- The skip of R135 to R140: nothing under DROP, an Opaque record of the trimmed payload under OPAQUE. -/
def skipPacket (pt : Byte) (s : State) : SubStep :=
  match s.cfg.policy with
  | .drop => .go s
  | .keepOpaque => withPayload s fun payload => appendOut (.opaqueRecord pt payload) s

/-- Step 7 for type 201 (R134): DECODE_RR of the trimmed payload and HDR.COUNT, then append. -/
def dispatchRr (s : State) : SubStep :=
  need .hdr s.work.hdr fun h =>
    withPayload s fun payload =>
      match decodeRr payload h.count with
      | none => raiseHere .invalidReceiverReportLength s
      | some r =>
        appendOut (.receiverReport r)
          { s with work := { s.work with blkIndex := blkAfter s.work.blkIndex h.count.toNat } }

/-- End of the packet step (R141): skipped packets are counted. -/
def endPacket (s : State) : SubStep :=
  need .pktIndex s.work.pktIndex fun n => .go { s with work := { s.work with pktIndex := some (n + 1) } }

/-- Steps 1 to 3 (R123 to R125). -/
def frameHeader (h : Header) (s : State) : SubStep :=
  ((headerPresent s).andThen (latchHeader h)).andThen checkVersion

/-- PACKET_STEP (R123 to R141) for a header and the dispatcher's action on its type. -/
def packetStep (h : Header) (dispatch : State → SubStep) (s : State) : Host.Outcome State Fault Refusal :=
  (((((frameHeader h s).andThen passHeader).andThen slicePayload).andThen stripPadding).andThen dispatch
    |>.andThen endPacket).outcome

/-- SR, packet type 200 (R135). -/
def execSr (p : BitVec 1) (count : BitVec 5) (length : BitVec 16) (s : State) : Host.Outcome State Fault Refusal :=
  packetStep { v := Config.version, p, count, pt := Config.ptSr, length } (skipPacket Config.ptSr) s

/-- RR, packet type 201 (R134). -/
def execRr (p : BitVec 1) (count : BitVec 5) (length : BitVec 16) (s : State) : Host.Outcome State Fault Refusal :=
  packetStep { v := Config.version, p, count, pt := Config.ptRr, length } dispatchRr s

/-- SDES, packet type 202 (R136). -/
def execSdes (p : BitVec 1) (count : BitVec 5) (length : BitVec 16) (s : State) : Host.Outcome State Fault Refusal :=
  packetStep { v := Config.version, p, count, pt := Config.ptSdes, length } (skipPacket Config.ptSdes) s

/-- BYE, packet type 203 (R137). -/
def execBye (p : BitVec 1) (count : BitVec 5) (length : BitVec 16) (s : State) : Host.Outcome State Fault Refusal :=
  packetStep { v := Config.version, p, count, pt := Config.ptBye, length } (skipPacket Config.ptBye) s

/-- RTPFB, packet type 205 (R138). -/
def execRtpfb (p : BitVec 1) (count : BitVec 5) (length : BitVec 16) (s : State) : Host.Outcome State Fault Refusal :=
  packetStep { v := Config.version, p, count, pt := Config.ptRtpfb, length } (skipPacket Config.ptRtpfb) s

/-- PSFB, packet type 206 (R139). -/
def execPsfb (p : BitVec 1) (count : BitVec 5) (length : BitVec 16) (s : State) : Host.Outcome State Fault Refusal :=
  packetStep { v := Config.version, p, count, pt := Config.ptPsfb, length } (skipPacket Config.ptPsfb) s

/-- UNKNOWN, every other packet type (R140): the code is HDR.PT. -/
def execUnknown (p : BitVec 1) (count : BitVec 5) (pt : Byte) (length : BitVec 16) (s : State) :
    Host.Outcome State Fault Refusal :=
  packetStep { v := Config.version, p, count, pt, length } (skipPacket pt) s

/-- Version 0 (R99): the header is fetched and InvalidVersion raised. -/
def execIllegalV0 (p : BitVec 1) (count : BitVec 5) (pt : Byte) (length : BitVec 16) (s : State) :
    Host.Outcome State Fault Refusal :=
  (frameHeader { v := 0, p, count, pt, length } s).outcome

/-- Version 1 (R99): the header is fetched and InvalidVersion raised. -/
def execIllegalV1 (p : BitVec 1) (count : BitVec 5) (pt : Byte) (length : BitVec 16) (s : State) :
    Host.Outcome State Fault Refusal :=
  (frameHeader { v := 1, p, count, pt, length } s).outcome

/-- Version 3 (R99): the header is fetched and InvalidVersion raised. -/
def execIllegalV3 (p : BitVec 1) (count : BitVec 5) (pt : Byte) (length : BitVec 16) (s : State) :
    Host.Outcome State Fault Refusal :=
  (frameHeader { v := 3, p, count, pt, length } s).outcome

end Sys2Proof.Machine
end

