-- ==== Sys2Proof/Machine/Internal.lean ====
section
/-! DEFINITION. The meaning of the seven internal operations (30_encoding.md R92): each takes its operands from the
instruction and hands its result back in RET (log 11), or raises its error. -/

namespace Sys2Proof.Machine

/-- Hands a result back to the caller. -/
def giveBack (r : CallResult) (s : State) : SubStep := .go { s with ret := some r }

/-- DECODE_RR (R160 to R162). -/
def execDecodeRr (payload : List Byte) (count : BitVec 5) (s : State) : Host.Outcome State Fault Refusal :=
  match decodeRr payload count with
  | none => (raiseHere .invalidReceiverReportLength s).outcome
  | some r =>
    (giveBack (.report r)
      { s with work := { s.work with blkIndex := blkAfter s.work.blkIndex count.toNat } }).outcome

/-- ENCODE_RR (R165, R166); more than 31 reports are refused (R171). -/
def execEncodeRr (pkt : ReceiverReport) (s : State) : Host.Outcome State Fault Refusal :=
  if pkt.fits then
    match encodeRr pkt with
    | .error j => (raiseOutOfRange { s with work := { s.work with blkIndex := some (BitVec.ofNat 5 j) } }).outcome
    | .ok body =>
      (giveBack (.bytes body)
        { s with work := { s.work with blkIndex := blkAfter s.work.blkIndex pkt.reports.length } }).outcome
  else .refused (.encodeTooManyReports s.work.k)

/-- WRAP_RR (R167). -/
def execWrapRr (n : BitVec 5) (body : List Byte) (s : State) : Host.Outcome State Fault Refusal :=
  (giveBack (.bytes (wrapRr n body)) s).outcome

/-- DECODE_BLOCK (R190, R191); it cannot fail. -/
def execDecodeBlock (b : Vector Byte 24) (s : State) : Host.Outcome State Fault Refusal :=
  (giveBack (.block (decodeBlock b.toList)) s).outcome

/-- ENCODE_BLOCK (R194). -/
def execEncodeBlock (b : ReportBlock) (s : State) : Host.Outcome State Fault Refusal :=
  match encodeBlock b with
  | none => (raiseOutOfRange s).outcome
  | some l => (giveBack (.bytes l) s).outcome

/-- SEXT24 (R192); it cannot fail. -/
def execSext24 (r : Vector Byte 3) (s : State) : Host.Outcome State Fault Refusal :=
  (giveBack (.int (sext24 r.toList)) s).outcome

/-- TRUNC24 (R195, R196). -/
def execTrunc24 (v : Int) (s : State) : Host.Outcome State Fault Refusal :=
  match trunc24 v with
  | none => (raiseOutOfRange s).outcome
  | some l => (giveBack (.bytes l) s).outcome

end Sys2Proof.Machine
end

