-- ==== Sys2Proof/Machine/Dispatch.lean ====
section
/-! DEFINITION. One arm per constructor of Instr, each one call of its meaning. -/

namespace Sys2Proof.Machine

def exec (i : Instr) (s : State) : Host.Outcome State Fault Refusal :=
  match i with
  | .sr p count length => Sys2Proof.Machine.execSr p count length s
  | .rr p count length => Sys2Proof.Machine.execRr p count length s
  | .sdes p count length => Sys2Proof.Machine.execSdes p count length s
  | .bye p count length => Sys2Proof.Machine.execBye p count length s
  | .rtpfb p count length => Sys2Proof.Machine.execRtpfb p count length s
  | .psfb p count length => Sys2Proof.Machine.execPsfb p count length s
  | .unknown p count pt length => Sys2Proof.Machine.execUnknown p count pt length s
  | .illegalV0 p count pt length => Sys2Proof.Machine.execIllegalV0 p count pt length s
  | .illegalV1 p count pt length => Sys2Proof.Machine.execIllegalV1 p count pt length s
  | .illegalV3 p count pt length => Sys2Proof.Machine.execIllegalV3 p count pt length s
  | .decode => Sys2Proof.Machine.execDecode s
  | .encode => Sys2Proof.Machine.execEncode s
  | .cmdReserved00 => Sys2Proof.Machine.execCmdReserved00 s
  | .cmdReserved11 => Sys2Proof.Machine.execCmdReserved11 s
  | .decodeRr payload count => Sys2Proof.Machine.execDecodeRr payload count s
  | .encodeRr pkt => Sys2Proof.Machine.execEncodeRr pkt s
  | .wrapRr n body => Sys2Proof.Machine.execWrapRr n body s
  | .decodeBlock b => Sys2Proof.Machine.execDecodeBlock b s
  | .encodeBlock b => Sys2Proof.Machine.execEncodeBlock b s
  | .sext24 r => Sys2Proof.Machine.execSext24 r s
  | .trunc24 v => Sys2Proof.Machine.execTrunc24 v s

end Sys2Proof.Machine
end

