-- ==== Sys2Proof/Machine/HostPort.lean ====
section
/-! DEFINITION. The host's side of a transaction (10_state.md R30 to R39; 70_reset_and_hazards.md R260, R263, R270, R273):
what each request does to the state, or why it is refused. -/

namespace Sys2Proof.Machine

/-- A request that touches a store or a register: not while BUSY (R31, R37, R270, R273). -/
def whenNotBusy (s : State) (r : Host.Outcome State Fault Refusal) : Host.Outcome State Fault Refusal :=
  if s.isBusy then .refused .hostAccessWhileBusy else r

/-- The value a read returns. -/
def returnToHost (v : HostValue) (s : State) : Host.Outcome State Fault Refusal := .next { s with hostData := some v }

/-- OUT is readable in DONE after a DECODE (R37, R273). -/
def outReadable (s : State) : Bool := s.status == .done && s.cmd == 1

/-- OBUF is readable in DONE after an ENCODE (R37, R273). -/
def obufReadable (s : State) : Bool := s.status == .done && s.cmd == 2

/-- Writes bytes of IBUF, which has BUF_MAX bytes (R38). -/
def hostWriteIbuf (offset : Nat) (bytes : List Byte) (s : State) : Host.Outcome State Fault Refusal :=
  if s.cfg.admits (offset + bytes.length) then .next { s with ibuf := Store.write s.ibuf offset bytes }
  else .fault (.noSuchAddress .ibuf (offset + bytes.length - 1))

/-- Writes IBUF_LEN; a value over BUF_MAX is refused (R33, R37; log 17). -/
def hostWriteIbufLen (n : Nat) (s : State) : Host.Outcome State Fault Refusal :=
  if s.cfg.admits n then .next { s with ibufLen := n } else .refused .ibufLenOverMax

/-- Reads one record of OUT, indexed `0 .. OUT_COUNT - 1` (R35, R50). -/
def hostReadOut (index : Nat) (s : State) : Host.Outcome State Fault Refusal :=
  if outReadable s then
    match s.out[index]? with
    | some p => returnToHost (.record p) s
    | none => .fault (.noSuchAddress .out index)
  else .refused .resultNotReadable

/-- Reads one byte of OBUF, addressed `0 .. OBUF_LEN - 1` (R36, R50). -/
def hostReadObuf (offset : Nat) (s : State) : Host.Outcome State Fault Refusal :=
  if obufReadable s then
    match (if offset < s.obufLen then Store.read s.obuf offset else none) with
    | some b => returnToHost (.byte b) s
    | none => .fault (.noSuchAddress .obuf offset)
  else .refused .resultNotReadable

/-- Serves one request of the host. -/
def serve (r : HostRequest) (s : State) : Host.Outcome State Fault Refusal :=
  match r with
  | .waitNotBusy => .next s
  | .writeIbuf offset bytes => whenNotBusy s (hostWriteIbuf offset bytes s)
  | .writeIbufLen n => whenNotBusy s (hostWriteIbufLen n s)
  | .writePin index pkt => whenNotBusy s (.next { s with pin := Store.write s.pin index [pkt] })
  | .writePinCount n => whenNotBusy s (.next { s with pinCount := n })
  | .writeCmd code => exec (decodeCmd code) s
  | .readState => returnToHost (.number s.status.code.toNat) s
  | .readErrKind => whenNotBusy s (returnToHost (.number s.err.kindCode.toNat) s)
  | .readErrOffset => whenNotBusy s (returnToHost (.number s.err.offset) s)
  | .readErrPkt => whenNotBusy s (returnToHost (.number s.err.pkt) s)
  | .readErrBlk => whenNotBusy s (returnToHost (.number s.err.blk.toNat) s)
  | .readOutCount => whenNotBusy s (returnToHost (.number s.outCount) s)
  | .readIbufLen => whenNotBusy s (returnToHost (.number s.ibufLen) s)
  | .readPinCount => whenNotBusy s (returnToHost (.number s.pinCount) s)
  | .readOut index => hostReadOut index s
  | .readObufLen => whenNotBusy s (returnToHost (.number s.obufLen) s)
  | .readObuf offset => hostReadObuf offset s
  | .hardwareReset => .next (hardwareReset s)

end Sys2Proof.Machine
end

