-- ==== Sys2Proof/Machine/Fetch.lean ====
section
/-! DEFINITION. What one step of the sequencer does while BUSY (10_state.md R21; 40_compound_reader.md R120 to R124): fetch
and run the packet at CUR, end the DECODE, or run the ENCODE. -/

namespace Sys2Proof.Machine

/-- Fetches the header at CUR and runs the packet (R123, R124, R133). With fewer than four bytes left, step 1 raises
Truncated and no byte is read. -/
def fetchPacket (c : Nat) (s : State) : Host.Outcome State Fault Refusal :=
  if Config.hdrBytes ≤ s.ibufLen - c then
    match memRead s c Config.hdrBytes with
    | .error f => .fault f
    | .ok bytes =>
      match decode bytes with
      | .error .headerIncomplete => .fault (.memReadOutOfRange c Config.hdrBytes)
      | .ok i => exec i s
  else (headerPresent s).outcome

/-- The loop of DECODE (R120, R122): a packet step while `CUR < IBUF_LEN`, then DONE. -/
def decodeRun (s : State) : Host.Outcome State Fault Refusal :=
  match s.work.cur with
  | none => .fault (.noValue .cur)
  | some c => if c < s.ibufLen then fetchPacket c s else .next (finishDecode s)

/-- One step of the running operation, which CMD names (R30). -/
def sequencer (s : State) : Host.Outcome State Fault Refusal :=
  match s.cmd with
  | 1 => decodeRun s
  | 2 => encodeRun s
  | 0 => .fault .noOperation
  | 3 => .fault .noOperation

/-- With no request of the host to serve, a BUSY block goes on and any other block stays as it is: "nothing runs after
reset until the host writes CMD" (R261). -/
def runOrWait (s : State) : Host.Outcome State Fault Refusal :=
  if s.isBusy then sequencer s else .next s

/-- The host's next request. A waiting host lets a BUSY block go on (R35, R36); any other request is served at once. -/
def hostTurn (r : HostRequest) (rest : List HostRequest) (s : State) : Host.Outcome State Fault Refusal :=
  if r = .waitNotBusy ∧ s.isBusy = true then sequencer s else serve r { s with host := rest }

/-- Puts a packet header and a payload of zeros where the next packet step reads them: a DECODE is running, CUR and
PKT_INDEX hold a value, and IBUF_LEN ends with the packet (log 24). -/
def placePacket (s : State) (w : Nat) : State :=
  let c := s.work.cur.getD 0
  let bytes := bytesOfWord w
  let size := payloadSize (match bytes with
    | h0 :: h1 :: h2 :: h3 :: _ => Header.ofBytes h0 h1 h2 h3
    | _ => Header.ofBytes 0 0 0 0)
  { s with
      cmd := 1
      status := .busy
      host := []
      ibuf := Store.write s.ibuf c (bytes ++ List.replicate size 0)
      ibufLen := c + Config.hdrBytes + size
      work := { s.work with cur := some c, pktIndex := some (s.work.pktIndex.getD 0) } }

/-- Makes a CMD write the host's next request (log 24). -/
def placeCommand (s : State) (w : Nat) : State := { s with host := .writeCmd (BitVec.ofNat 2 w) :: s.host }

end Sys2Proof.Machine
end

