-- ==== Sys2Proof/Machine/Step.lean ====
section
/-! DEFINITION. One step of RCPF: the host's next request, or the running operation. -/

namespace Sys2Proof.Machine

/-- One step. -/
def step (s : State) : Host.Outcome State Fault Refusal :=
  match s.host with
  | [] => runOrWait s
  | r :: rest => hostTurn r rest s

/-- The instruction of the table's word placed so that the next step runs it: a header word as the packet at CUR of a
running DECODE, a shorter word as the CMD code the host writes next (log 24). -/
def State.withFetchWord (s : State) (nbits w : Nat) : State :=
  if 32 ≤ nbits then placePacket s w else placeCommand s w

end Sys2Proof.Machine
end

