-- ==== Sys2Proof/Machine/Function.lean ====
section
/-! DEFINITION. The two operations as functions of their input, the observable of 10_state.md R20: "a model may keep them
as the fields of a step relation ... or compute the function directly; the two must give the same result". The step relation
is Machine/Fetch.lean and Machine/Packets.lean; this file is the direct form. -/

namespace Sys2Proof.Machine

/-- The result of a failed DECODE: `Err(kind, offset, pkt)` (R120). -/
structure DecodeError where
  kind : ErrorKind
  offset : Nat
  pkt : Nat
deriving DecidableEq, Repr

/-- The padding stripper (R129 to R131) on a whole payload: the trimmed payload, or `none` for InvalidPadding. -/
def trimPayload (h : Header) (payload : List Byte) : Option (List Byte) :=
  if paddingFlag h then
    match payload.getLast? with
    | none => none
    | some p =>
      if 0 < p.toNat ∧ p.toNat ≤ payload.length then some (payload.take (payload.length - p.toNat)) else none
  else some payload

/-- What one framed packet appends to OUT (R133 to R140). -/
def packetRecords (policy : Config.Policy) (h : Header) (trimmed : List Byte) : Except ErrorKind (List Packet) :=
  if h.pt = Config.ptRr then
    match decodeRr trimmed h.count with
    | none => .error .invalidReceiverReportLength
    | some r => .ok [.receiverReport r]
  else
    match policy with
    | .drop => .ok []
    | .keepOpaque => .ok [.opaqueRecord h.pt trimmed]

/-- One packet at the front of a buffer (R123 to R140): the records it appends and the bytes after it, or the error of the
first failing check in the order of R229. -/
def onePacket (policy : Config.Policy) : List Byte → Except ErrorKind (List Packet × List Byte)
  | h0 :: h1 :: h2 :: h3 :: rest =>
    let h := Header.ofBytes h0 h1 h2 h3
    if h.v ≠ Config.version then .error .invalidVersion
    else if rest.length < payloadSize h then .error .truncated
    else
      match trimPayload h (rest.take (payloadSize h)) with
      | none => .error .invalidPadding
      | some trimmed =>
        match packetRecords policy h trimmed with
        | .error e => .error e
        | .ok recs => .ok (recs, rest.drop (payloadSize h))
  | _ => .error .truncated

/-- The loop of DECODE (R120) over the bytes not yet read, from an offset and a packet index on. The first argument bounds
the number of packets, and the length of the buffer is enough (R143). -/
def scan (policy : Config.Policy) : Nat → Nat → Nat → List Byte → Except DecodeError (List Packet)
  | 0, _, _, _ => .ok []
  | _ + 1, _, _, [] => .ok []
  | fuel + 1, offset, pkt, b :: bs =>
    match onePacket policy (b :: bs) with
    | .error kind => .error { kind := kind, offset := offset, pkt := pkt }
    | .ok (recs, rest) =>
      match scan policy fuel (offset + ((b :: bs).length - rest.length)) (pkt + 1) rest with
      | .error e => .error e
      | .ok more => .ok (recs ++ more)

/-- DECODE as a function of the input bytes and the policy (R20, R120). -/
def decodeFunction (policy : Config.Policy) (bytes : List Byte) : Except DecodeError (List Packet) :=
  scan policy bytes.length 0 0 bytes

/-- ENCODE of Receiver Reports as a function (R20, R170): the bytes, or the packet and block index of OutOfRange. -/
def encodeFunction (pkts : List ReceiverReport) : Except (Nat × Nat) (List Byte) := encodePackets 0 pkts

end Sys2Proof.Machine
end

