-- ==== Sys2Proof/Safety.lean ====
section
/-! DEFINITION. What holds of every state a run can reach, and what a run of a host that keeps the protocol is. -/

namespace Sys2Proof.Machine

/-- The invariant of RCPF. It holds at reset and every step keeps it. -/
structure State.Inv (s : State) : Prop where
  /-- IBUF is in canonical form -/
  ibufWf : Memory.wf s.ibuf
  /-- OBUF is in canonical form -/
  obufWf : Memory.wf s.obuf
  /-- PIN is in canonical form -/
  pinWf : Store.wf s.pin
  /-- `0 <= IBUF_LEN <= BUF_MAX` (R33) -/
  lenAdmitted : s.cfg.admits s.ibufLen = true
  /-- BUSY: CMD names the running operation (R30, R31); DONE and ERROR: it names the last one (log 3) -/
  operation : s.status ≠ .idle → s.cmd = 1 ∨ s.cmd = 2
  /-- R22, R144 (b), (c): a running DECODE's cursor lies in the buffer at a multiple of 4, every packet took at least four
  bytes, and OUT has at most one record a packet, exactly one under OPAQUE -/
  cursor : s.status = .busy → s.cmd = 1 →
    ∃ c k, s.work.cur = some c ∧ s.work.pktIndex = some k ∧ c ≤ s.ibufLen ∧ c % 4 = 0 ∧ 4 * k ≤ c ∧
      s.out.length ≤ k ∧ (s.cfg.policy = .keepOpaque → s.out.length = k)
  /-- `PAY_START <= PAY_END <= IBUF_LEN` (R25) -/
  slice : s.status = .busy → s.cmd = 1 →
    ∀ a e, s.work.payStart = some a → s.work.payEnd = some e → a ≤ e ∧ e ≤ s.ibufLen
  /-- every record of OUT is legal under the policy (R40 to R43, R193) -/
  outLegal : ∀ p ∈ s.out, p.legalUnder s.cfg.policy = true
  /-- a running ENCODE has only records it accepts (R171) -/
  accepted : s.status = .busy → s.cmd = 2 → ∃ rs, acceptPackets 0 (pinRecords s) = .ok rs
  /-- ERR_* are zero outside ERROR (R45, R46) -/
  noError : s.status ≠ .error → s.err = ErrRegs.zero
  /-- OUT_COUNT and OBUF_LEN are 0 in ERROR, whichever operation failed (R33, R230) -/
  errorCounts : s.status = .error → s.outCount = 0 ∧ s.obufLen = 0
  /-- a failed DECODE has one of the first four kinds and block 0 (R220, R222 to R225) -/
  decodeError : s.status = .error → s.cmd = 1 →
    (∃ k, s.err.kind = some k ∧ k ≠ .outOfRange) ∧ s.err.blk = 0
  /-- a failed ENCODE has OutOfRange and offset 0 (R220, R226) -/
  encodeError : s.status = .error → s.cmd = 2 →
    s.err.kind = some .outOfRange ∧ s.err.offset = 0
  /-- OUT_COUNT counts the records of a finished DECODE (R33) -/
  doneCount : s.status = .done → s.cmd = 1 → s.outCount = s.out.length
  /-- every byte of OBUF below OBUF_LEN has been written (R50) -/
  obufListed : ∀ a, a < s.obufLen → (Store.read s.obuf a).isSome = true

/-- The host waits for the running operation, or has nothing to ask (R35, R36). -/
def State.hostWaits (s : State) : Bool :=
  match s.host with
  | [] => true
  | r :: _ => r == .waitNotBusy

/-- A step that does not stop the machine. -/
def Safe (o : Host.Outcome State Fault Refusal) : Prop := ∃ t, o = .next t

end Sys2Proof.Machine
end

