-- ==== Sys2Proof/Certificates/Slice0/Obligations.lean ====
section
/-! DEFINITION. The statements for the provers, one `def Obligations.<Name> : Prop` each; OBLIGATIONS.json lists them. -/

namespace Sys2Proof.Statements

open Sys2Proof.Machine

/-- The sequencer takes the next step: BUSY, and the host waits or has nothing to ask (R35, R36). -/
def Running (s : State) : Prop := s.status = .busy ∧ s.hostWaits = true

/-- A packet step can start: CUR and PKT_INDEX hold `c` and `n`, and at least four bytes remain (R123). -/
def AtPacket (s : State) (c n : Nat) : Prop :=
  s.work.cur = some c ∧ s.work.pktIndex = some n ∧ 4 ≤ s.ibufLen - c

/-- The declared payload of a version-2 header at `c` lies inside the buffer (R127). -/
def PayloadInside (s : State) (h : Header) (c : Nat) : Prop :=
  h.v = 2 ∧ c + 4 + 4 * h.length.toNat ≤ s.ibufLen

/-- The payload at `c + 4` is legal and `m` bytes long once trimmed (R129 to R131): all of it when HDR.P = 0; without its
last `p` bytes when HDR.P = 1, where `p` is its last byte and `0 < p <= L`. -/
def TrimmedTo (s : State) (h : Header) (c m : Nat) : Prop :=
  (h.p = 0 ∧ m = 4 * h.length.toNat) ∨
  (h.p = 1 ∧ ∃ p, 0 < p ∧ p ≤ 4 * h.length.toNat ∧
    (ibufByte s (c + 4 + 4 * h.length.toNat - 1)).toNat = p ∧ m = 4 * h.length.toNat - p)

/-- The packet types whose body is not decoded (R135 to R140). -/
def Skipped : Instr → Prop
  | .sr _ _ _ => True
  | .sdes _ _ _ => True
  | .bye _ _ _ => True
  | .rtpfb _ _ _ => True
  | .psfb _ _ _ => True
  | .unknown _ _ _ _ => True
  | _ => False

/-- The error entry of a DECODE (R230): kind, PKT_START, PKT_INDEX, block 0, no record, STATE = ERROR; both counts are 0
(R33). -/
def decodeErrorState (k : ErrorKind) (offset pkt : Nat) (work : Work) (s : State) : State :=
  { s with status := .error, err := { kind := some k, offset := offset, pkt := pkt, blk := 0 }, out := [], outCount := 0,
           obufLen := 0, work := work }

/-- The error entry of an ENCODE (R230, R226): OutOfRange, offset 0, packet and block, no byte, STATE = ERROR; both counts
are 0 (R33). -/
def encodeErrorState (pkt : Nat) (blk : BitVec 5) (work : Work) (s : State) : State :=
  { s with status := .error, err := { kind := some .outOfRange, offset := 0, pkt := pkt, blk := blk }, outCount := 0,
           obufLen := 0, work := work }

/-- The integer that three bytes stand for as a 24-bit two's-complement number (R12, R192). -/
def signed24 (b0 b1 b2 : Byte) : Int :=
  let v : Int := b0.toNat * 65536 + b1.toNat * 256 + b2.toNat
  if v < 8388608 then v else v - 16777216

/-- The three big-endian bytes of `v mod 2^24` (R195). -/
def bytes24 (v : Int) : List Byte :=
  [BitVec.ofNat 8 ((v % 16777216).toNat / 65536), BitVec.ofNat 8 ((v % 16777216).toNat / 256),
   BitVec.ofNat 8 ((v % 16777216).toNat)]

/-- The four big-endian bytes of a u32 (R166). -/
def bytes32 (v : Word) : List Byte :=
  [BitVec.ofNat 8 (v.toNat / 16777216), BitVec.ofNat 8 (v.toNat / 65536), BitVec.ofNat 8 (v.toNat / 256),
   BitVec.ofNat 8 v.toNat]

/-- The u32 that four bytes stand for (R12). -/
def word32 (b0 b1 b2 b3 : Byte) : Word :=
  BitVec.ofNat 32 (b0.toNat * 16777216 + b1.toNat * 65536 + b2.toNat * 256 + b3.toNat)

/-- The u32 that the four bytes of IBUF from `a` on stand for (R12). -/
def ibufWord (s : State) (a : Nat) : Word :=
  word32 (ibufByte s a) (ibufByte s (a + 1)) (ibufByte s (a + 2)) (ibufByte s (a + 3))

/-- The report block that the 24 bytes of IBUF from `a` on stand for (R88, R191). -/
def ibufBlock (s : State) (a : Nat) : ReportBlock :=
  { ssrc := ibufWord s a
    fractionLost := ibufByte s (a + 4)
    packetsLost := signed24 (ibufByte s (a + 5)) (ibufByte s (a + 6)) (ibufByte s (a + 7))
    highestSequence := ibufWord s (a + 8)
    jitter := ibufWord s (a + 12)
    lsr := ibufWord s (a + 16)
    dlsr := ibufWord s (a + 20) }

/-- The 24 bytes of a block whose counter is in range (R88, R194). -/
def blockBytes (b : ReportBlock) : List Byte :=
  bytes32 b.ssrc ++ [b.fractionLost] ++ bytes24 b.packetsLost ++ bytes32 b.highestSequence ++ bytes32 b.jitter ++
    bytes32 b.lsr ++ bytes32 b.dlsr

/-- The body of a Receiver Report (R87, R166). -/
def bodyBytes (r : ReceiverReport) : List Byte := bytes32 r.senderSsrc ++ r.reports.flatMap blockBytes

/-- The canonical packet of a Receiver Report with `n` reports (R103, R167): `0x80 | n`, `0xC9`, `be_u16(1 + 6n)`, body. -/
def packetBytes (r : ReceiverReport) : List Byte :=
  [BitVec.ofNat 8 (128 + r.reports.length), 201, BitVec.ofNat 8 ((1 + 6 * r.reports.length) / 256),
   BitVec.ofNat 8 (1 + 6 * r.reports.length)] ++ bodyBytes r

/-- BLK_INDEX after a loop over `n` blocks: the last index, `old` if there was none (R162, R166; log 23). -/
def lastBlock (old : Option (BitVec 5)) (n : Nat) : Option (BitVec 5) :=
  if n = 0 then old else some (BitVec.ofNat 5 (n - 1))

/-- How many packet steps a DECODE of these bytes takes that do not raise (R144), counted by the packets framed and not by
the records they append. The first argument bounds the count; the length of the bytes is enough (R143). -/
def packetSteps (policy : Config.Policy) : Nat → List Byte → Nat
  | 0, _ => 0
  | fuel + 1, bytes =>
    match onePacket policy bytes with
    | .error _ => 0
    | .ok (_, rest) => packetSteps policy fuel rest + 1

/-- A buffer of Receiver Report packets without padding (R173 (d)). -/
inductive PlainReports : List Byte → Prop
  | nil : PlainReports []
  | cons (h : Header) (payload rest : List Byte) (hv : h.v = 2) (hp : h.p = 0) (ht : h.pt = 201)
      (hl : payload.length = 4 * h.length.toNat) (hr : PlainReports rest) :
      PlainReports (h.toBytes ++ payload ++ rest)

/-- What the host can observe of an operation's result (R20, R31 to R33, R39). -/
structure Observed where
  status : Status
  err : ErrRegs
  outCount : Nat
  out : List Packet
deriving DecidableEq, Repr

/-- The observable part of an outcome, if it is a next state. -/
def observeDecode : Host.Outcome State Fault Refusal → Option Observed
  | .next t => some { status := t.status, err := t.err, outCount := t.outCount, out := t.out }
  | .fault _ => none
  | .refused _ => none

/-- What DECODE leaves according to the function of R20. -/
def DecodeResultIs (r : Except DecodeError (List Packet)) (t : State) : Prop :=
  match r with
  | .ok ps => t.status = .done ∧ t.out = ps ∧ t.outCount = ps.length ∧ t.err = ErrRegs.zero
  | .error e =>
    t.status = .error ∧ t.err = { kind := some e.kind, offset := e.offset, pkt := e.pkt, blk := 0 } ∧ t.outCount = 0

/-- What a read of a register gives: the number, with nothing else changed but the request list. -/
def ReadGives (s : State) (rest : List HostRequest) (n : Nat) : Prop :=
  step s = .next { s with host := rest, hostData := some (.number n) }

end Sys2Proof.Statements

open Sys2Proof Sys2Proof.Machine Sys2Proof.Statements

/-! ## Encodings -/

/-- No bit of an encoding is dropped: every well-formed instruction of format H decodes back from its four header bytes,
and every host command from its code, whatever follows the header. -/
def Obligations.DecodeOfEncodeIsTheInstruction : Prop :=
  (∀ (i : Instr) (rest : List Byte), i.wellFormed = true → i.format = .header → decode (encode i ++ rest) = .ok i) ∧
  (∀ (i : Instr), i.wellFormed = true → i.format = .hostCmd → decodeAs .hostCmd (encode i) = some i)

/-- R91: the opcode map is total and unambiguous. Every four header bytes are the encoding of exactly one well-formed
instruction of format H, and `W & 0xC0FF0000` selects its row as the table says. -/
def Obligations.EveryHeaderWordIsExactlyOneRow : Prop :=
  ∀ (b0 b1 b2 b3 : Byte),
    (∃ i : Instr, decode [b0, b1, b2, b3] = .ok i ∧ i.wellFormed = true ∧ i.format = .header ∧
      encode i = [b0, b1, b2, b3] ∧
      ∀ j : Instr, j.wellFormed = true → j.format = .header → encode j = [b0, b1, b2, b3] → j = i) ∧
    (∀ i : Instr, decode [b0, b1, b2, b3] = .ok i →
      let w : BitVec 32 := b0 ++ b1 ++ b2 ++ b3
      let sel := w &&& 0xC0FF0000
      (sel = 0x80C80000 ↔ ∃ p n l, i = .sr p n l) ∧
      (sel = 0x80C90000 ↔ ∃ p n l, i = .rr p n l) ∧
      (sel = 0x80CA0000 ↔ ∃ p n l, i = .sdes p n l) ∧
      (sel = 0x80CB0000 ↔ ∃ p n l, i = .bye p n l) ∧
      (sel = 0x80CD0000 ↔ ∃ p n l, i = .rtpfb p n l) ∧
      (sel = 0x80CE0000 ↔ ∃ p n l, i = .psfb p n l) ∧
      ((w &&& 0xC0000000) = 0x00000000 ↔ ∃ p n t l, i = .illegalV0 p n t l) ∧
      ((w &&& 0xC0000000) = 0x40000000 ↔ ∃ p n t l, i = .illegalV1 p n t l) ∧
      ((w &&& 0xC0000000) = 0xC0000000 ↔ ∃ p n t l, i = .illegalV3 p n t l) ∧
      ((w &&& 0xC0000000) = 0x80000000 ∧
        sel ∉ [0x80C80000#32, 0x80C90000#32, 0x80CA0000#32, 0x80CB0000#32, 0x80CD0000#32, 0x80CE0000#32] ↔
          ∃ p n t l, i = .unknown p n t l))

/-- R30: `0b01` is DECODE, `0b10` is ENCODE, `0b00` and `0b11` are reserved. -/
def Obligations.CommandCodesAreDecoded : Prop :=
  decodeCmd 0b01 = .decode ∧ decodeCmd 0b10 = .encode ∧ decodeCmd 0b00 = .cmdReserved00 ∧ decodeCmd 0b11 = .cmdReserved11

/-- A few words of the spec decode to the instruction they stand for (95_test_vectors.md V7, D14, D15b, D4 to D6, D26 to
D30). -/
def Obligations.SampleWordsDecode : Prop :=
  decode [0x81, 0xC9, 0x00, 0x07] = .ok (.rr 0 1 7) ∧
  decode [0x80, 0xC8, 0x00, 0x01] = .ok (.sr 0 0 1) ∧
  decode [0xA1, 0xCA, 0x00, 0x03] = .ok (.sdes 1 1 3) ∧
  decode [0xA1, 0xCB, 0x00, 0x01] = .ok (.bye 1 1 1) ∧
  decode [0x81, 0xCD, 0x00, 0x02] = .ok (.rtpfb 0 1 2) ∧
  decode [0x81, 0xCE, 0x00, 0x00] = .ok (.psfb 0 1 0) ∧
  decode [0x9F, 0x00, 0x00, 0x00] = .ok (.unknown 0 31 0 0) ∧
  decode [0x01, 0xC9, 0x00, 0x07] = .ok (.illegalV0 0 1 201 7) ∧
  decode [0x41, 0xC9, 0x00, 0x07] = .ok (.illegalV1 0 1 201 7) ∧
  decode [0xC1, 0xC9, 0x00, 0x07] = .ok (.illegalV3 0 1 201 7)

/-! ## Steps -/

/-- While a DECODE runs and at least four bytes remain at CUR, a step is exec of the instruction that the four bytes at CUR
decode to, and there is one. -/
def Obligations.StepRunsTheDecodedPacket : Prop :=
  ∀ (s : State) (c n : Nat), Running s → s.cmd = 1 → AtPacket s c n →
    ∃ i : Instr, decode (ibufBytes s c 4) = .ok i ∧ step s = exec i s

/-- A CMD write is the instruction its code decodes to, run once the request is off the host's list. -/
def Obligations.StepRunsTheWrittenCommand : Prop :=
  ∀ (s : State) (code : BitVec 2) (rest : List HostRequest), s.host = .writeCmd code :: rest →
    step s = exec (decodeCmd code) { s with host := rest }

/-- R124: the header fetch extracts `version = byte0 >> 6`, `padding = (byte0 >> 5) & 1`, `count = byte0 & 0x1F`,
`packet_type = byte1`, `length = be_u16(bytes[2:4])` into HDR.*, for all header values. -/
def Obligations.HeaderFetchExtractsTheFields : Prop :=
  ∀ (s : State) (c n : Nat), Running s → s.cmd = 1 → AtPacket s c n →
    ∃ (t : State) (h : Header), step s = .next t ∧ t.work.hdr = some h ∧
      h.v.toNat = (ibufByte s c).toNat / 64 ∧
      h.p.toNat = (ibufByte s c).toNat / 32 % 2 ∧
      h.count.toNat = (ibufByte s c).toNat % 32 ∧
      h.pt = ibufByte s (c + 1) ∧
      h.length.toNat = (ibufByte s (c + 2)).toNat * 256 + (ibufByte s (c + 3)).toNat

/-- R222: Truncated has two causes: 1 to 3 bytes remain at a packet step, or the declared payload runs past the buffer.
Each ends the DECODE with ERR_OFFSET = PKT_START and ERR_PKT = PKT_INDEX. That OUT is then empty is the model's choice
(log 14). -/
def Obligations.TruncatedHasTwoCauses : Prop :=
  ∀ (s : State) (c n : Nat), Running s → s.cmd = 1 → s.work.cur = some c → s.work.pktIndex = some n →
    (1 ≤ s.ibufLen - c → s.ibufLen - c ≤ 3 →
      step s = .next (decodeErrorState .truncated c n { s.work with pktStart := some c } s)) ∧
    (∀ h : Header, 4 ≤ s.ibufLen - c →
      h = Header.ofBytes (ibufByte s c) (ibufByte s (c + 1)) (ibufByte s (c + 2)) (ibufByte s (c + 3)) →
      h.v = 2 → s.ibufLen < c + 4 + 4 * h.length.toNat →
      step s = .next (decodeErrorState .truncated c n
        { s.work with pktStart := some c, hdr := some h, cur := some (c + 4) } s))

/-- R122, R120: a packet step is taken only below IBUF_LEN; at IBUF_LEN the run ends with DONE and OUT_COUNT counting OUT,
and nothing else changes. -/
def Obligations.DecodeEndsAtTheBufferEnd : Prop :=
  ∀ (s : State) (c : Nat), Running s → s.cmd = 1 → s.work.cur = some c → s.ibufLen ≤ c →
    step s = .next { s with status := .done, outCount := s.out.length }

/-! ## Packets -/

/-- R127, R128: after the version check, the payload must end inside the buffer, by an exact sum. It passes at equality,
and then PAY_START, CUR and (without padding) PAY_END are set whatever follows; it fails otherwise with Truncated at
PKT_START. For every version-2 packet type. That OUT is empty after the error is the model's choice (log 14). -/
def Obligations.BoundsCheckAndSlice : Prop :=
  ∀ (i : Instr) (h : Header) (s : State) (c n : Nat), i.header = some h → h.v = 2 → AtPacket s c n →
    (s.ibufLen < c + 4 + 4 * h.length.toNat →
      exec i s = .next (decodeErrorState .truncated c n
        { s.work with pktStart := some c, hdr := some h, cur := some (c + 4) } s)) ∧
    (c + 4 + 4 * h.length.toNat ≤ s.ibufLen →
      ∃ t, exec i s = .next t ∧ t.work.pktStart = some c ∧ t.work.payStart = some (c + 4) ∧
        t.work.cur = some (c + 4 + 4 * h.length.toNat) ∧ (t.err = s.err ∨ t.err.kind ≠ some .truncated) ∧
        (h.p = 0 → t.work.payEnd = some (c + 4 + 4 * h.length.toNat)))

/-- R130, R131: with HDR.P = 1, an empty payload, `p = 0` and `p > L` raise InvalidPadding; any other `p` moves PAY_END
back by `p` and leaves CUR at the end of the packet. For every version-2 packet type. That OUT is empty after the error is
the model's choice (log 14). -/
def Obligations.PaddingIsCheckedAndTrimmed : Prop :=
  ∀ (i : Instr) (h : Header) (s : State) (c n p size : Nat), i.header = some h → AtPacket s c n → PayloadInside s h c →
    h.p = 1 → size = 4 * h.length.toNat → p = (ibufByte s (c + 4 + size - 1)).toNat →
    (size = 0 ∨ p = 0 ∨ size < p →
      exec i s = .next (decodeErrorState .invalidPadding c n
        { s.work with pktStart := some c, hdr := some h, payStart := some (c + 4), payEnd := some (c + 4 + size),
                      cur := some (c + 4 + size) } s)) ∧
    (0 < size → 0 < p → p ≤ size →
      ∃ t, exec i s = .next t ∧ t.work.payStart = some (c + 4) ∧ t.work.payEnd = some (c + 4 + size - p) ∧
        t.work.cur = some (c + 4 + size) ∧ (t.err = s.err ∨ t.err.kind ≠ some .invalidPadding))

/-- R135 to R140, R141: SR, SDES, BYE, RTPFB, PSFB and every other type complete once the header, version, bounds and
padding checks have passed. CUR is past the packet, PKT_INDEX counts it, OUT is unchanged under DROP and gains
`Opaque{packet_type, trimmed payload}` under OPAQUE; nothing else changes. -/
def Obligations.SkippedPacketsComplete : Prop :=
  ∀ (i : Instr) (h : Header) (s : State) (c n m : Nat), Skipped i → i.wellFormed = true → i.header = some h →
    AtPacket s c n → PayloadInside s h c → TrimmedTo s h c m →
    exec i s = .next { s with
      out := s.out ++ (match s.cfg.policy with
        | .drop => []
        | .keepOpaque => [.opaqueRecord h.pt (ibufBytes s (c + 4) m)])
      work := { s.work with
        pktStart := some c, hdr := some h, payStart := some (c + 4), payEnd := some (c + 4 + m),
        cur := some (c + 4 + 4 * h.length.toNat), pktIndex := some (n + 1) } }

/-- R134, R162: a type-201 packet whose trimmed payload has exactly `4 + 24 * count` bytes completes under either policy.
OUT gains the Receiver Report whose sender SSRC is the first four bytes and whose blocks are the 24-byte slices in wire
order; nothing else changes. That BLK_INDEX keeps the last index is the model's reading (log 23). -/
def Obligations.ReceiverReportPacketCompletes : Prop :=
  ∀ (p : BitVec 1) (count : BitVec 5) (length : BitVec 16) (h : Header) (s : State) (c n m : Nat),
    h = { v := 2, p := p, count := count, pt := 201, length := length } →
    AtPacket s c n → PayloadInside s h c → TrimmedTo s h c m → m = 4 + 24 * count.toNat →
    exec (.rr p count length) s = .next { s with
      out := s.out ++ [.receiverReport
        { senderSsrc := ibufWord s (c + 4)
          reports := (List.range count.toNat).map fun j => ibufBlock s (c + 8 + 24 * j) }]
      work := { s.work with
        pktStart := some c, hdr := some h, payStart := some (c + 4), payEnd := some (c + 4 + m),
        cur := some (c + 4 + 4 * length.toNat), pktIndex := some (n + 1),
        blkIndex := lastBlock s.work.blkIndex count.toNat } }

/-- R225: a type-201 packet whose trimmed payload has another size raises InvalidReceiverReportLength; no other type ever
does. That OUT is empty after the error is the model's choice (log 14). -/
def Obligations.WrongReceiverReportLengthRaises : Prop :=
  (∀ (p : BitVec 1) (count : BitVec 5) (length : BitVec 16) (h : Header) (s : State) (c n m : Nat),
    h = { v := 2, p := p, count := count, pt := 201, length := length } →
    AtPacket s c n → PayloadInside s h c → TrimmedTo s h c m → m ≠ 4 + 24 * count.toNat →
    exec (.rr p count length) s = .next (decodeErrorState .invalidReceiverReportLength c n
      { s.work with
        pktStart := some c, hdr := some h, payStart := some (c + 4), payEnd := some (c + 4 + m),
        cur := some (c + 4 + 4 * length.toNat) } s)) ∧
  (∀ (i : Instr) (h : Header) (s t : State), i.header = some h → (∀ p n l, i ≠ .rr p n l) → exec i s = .next t →
    t.err = s.err ∨ t.err.kind ≠ some .invalidReceiverReportLength)

/-- R223: a version of 0, 1 or 3 raises InvalidVersion at PKT_START, before CUR has moved and whatever the length says.
That OUT is empty after the error is the model's choice (log 14). -/
def Obligations.IllegalVersionsRaiseInvalidVersion : Prop :=
  ∀ (p : BitVec 1) (count : BitVec 5) (pt : Byte) (length : BitVec 16) (s : State) (c n : Nat), AtPacket s c n →
    exec (.illegalV0 p count pt length) s = .next (decodeErrorState .invalidVersion c n
      { s.work with pktStart := some c, hdr := some { v := 0, p := p, count := count, pt := pt, length := length } } s) ∧
    exec (.illegalV1 p count pt length) s = .next (decodeErrorState .invalidVersion c n
      { s.work with pktStart := some c, hdr := some { v := 1, p := p, count := count, pt := pt, length := length } } s) ∧
    exec (.illegalV3 p count pt length) s = .next (decodeErrorState .invalidVersion c n
      { s.work with pktStart := some c, hdr := some { v := 3, p := p, count := count, pt := pt, length := length } } s)

/-- The frame of every packet (SR, RR, SDES, BYE, RTPFB, PSFB, UNKNOWN and the illegal versions): CMD, IBUF_LEN, PIN_COUNT,
the configuration, every byte of IBUF and OBUF, every record of PIN and the model's own fields are unchanged; K is
unchanged, BLK_INDEX changes by RR only; STATE, ERR_*, OUT_COUNT and OBUF_LEN change by an error only, which leaves both
counts 0 (R33). A packet writes no store but OUT. That OUT is empty after an error is the model's choice (log 14). -/
def Obligations.PacketFrame : Prop :=
  ∀ (i : Instr) (h : Header) (s t : State), i.header = some h → exec i s = .next t →
    t.cmd = s.cmd ∧ t.ibufLen = s.ibufLen ∧ t.pinCount = s.pinCount ∧ t.cfg = s.cfg ∧
    (∀ a, ibufByte t a = ibufByte s a) ∧ (∀ a, Store.read t.obuf a = Store.read s.obuf a) ∧
    (∀ a, pinRecord t a = pinRecord s a) ∧ t.ibuf = s.ibuf ∧ t.obuf = s.obuf ∧ t.pin = s.pin ∧
    t.ret = s.ret ∧ t.resetCount = s.resetCount ∧ t.host = s.host ∧ t.hostData = s.hostData ∧
    t.work.k = s.work.k ∧ ((∀ p n l, i ≠ .rr p n l) → t.work.blkIndex = s.work.blkIndex) ∧
    (t.status = s.status ∧ t.err = s.err ∧ t.outCount = s.outCount ∧ t.obufLen = s.obufLen ∧
        (∃ more, t.out = s.out ++ more ∧ more.length ≤ 1) ∨
      t.status = .error ∧ t.err.kind.isSome = true ∧ t.out = [] ∧ t.outCount = 0 ∧ t.obufLen = 0)

/-! ## Commands -/

/-- R46: a legal DECODE command starts from CUR = 0, PKT_INDEX = 0, an empty OUT, OUT_COUNT = 0 and ERR_* = 0, with STATE
= BUSY; no other working register of R22 to R26 holds a value (R28; log 4), and K is 0 (log 13). Nothing else changes. -/
def Obligations.DecodeCommandStarts : Prop :=
  ∀ s : State, s.status ≠ .busy → s.cfg.admits s.ibufLen = true →
    exec .decode s = .next { s with
      cmd := 0b01, status := .busy, err := { kind := none, offset := 0, pkt := 0, blk := 0 }, out := [], outCount := 0
      work := { cur := some 0, pktIndex := some 0, pktStart := none, hdr := none, payStart := none, payEnd := none,
                blkIndex := none, k := 0 } }

/-- R46, R170: a legal ENCODE command, on records that R171 admits, starts from OBUF_LEN = 0 and ERR_* = 0 with STATE =
BUSY; no working register of R22 to R26 holds a value (R28; log 4), and K is 0 (log 13). Nothing else changes. -/
def Obligations.EncodeCommandStarts : Prop :=
  ∀ s : State, s.status ≠ .busy →
    (∀ k, k < s.pinCount → ∃ r, pinRecord s k = .receiverReport r ∧ r.reports.length ≤ 31) →
    exec .encode s = .next { s with
      cmd := 0b10, status := .busy, err := { kind := none, offset := 0, pkt := 0, blk := 0 }, obufLen := 0
      work := { cur := none, pktIndex := none, pktStart := none, hdr := none, payStart := none, payEnd := none,
                blkIndex := none, k := 0 } }

/-- R37: the reserved command codes are refused in every state. -/
def Obligations.ReservedCommandsAreRefused : Prop :=
  ∀ s : State, exec .cmdReserved00 s = .refused .reservedCommand ∧ exec .cmdReserved11 s = .refused .reservedCommand

/-- R37, R171, R270, R273, R31: what the hardware gives no meaning to is refused: a command while BUSY; a host write of a
store or an input register while BUSY, and a host read of any register but STATE while BUSY (log 18); a result that is not
readable; IBUF_LEN over BUF_MAX; an ENCODE of an Opaque record or of more than 31 reports. That IBUF_LEN is refused both at
its write and at DECODE is log 17, that ENCODE's refusal comes at the CMD write is log 16, that IBUF_LEN and PIN_COUNT can
be read at all is log 33, and that a refusal gives no next state is log 32: these are the model's. -/
def Obligations.ProtocolBreachesAreRefused : Prop :=
  ∀ (s : State) (r : HostRequest) (rest : List HostRequest), s.host = r :: rest →
    (r = .writeCmd 0b00 ∨ r = .writeCmd 0b11 → step s = .refused .reservedCommand) ∧
    (s.status = .busy → r = .writeCmd 0b01 ∨ r = .writeCmd 0b10 → step s = .refused .commandWhileBusy) ∧
    (s.status = .busy →
      (∃ a b, r = .writeIbuf a b) ∨ (∃ n, r = .writeIbufLen n) ∨ (∃ k p, r = .writePin k p) ∨ (∃ n, r = .writePinCount n) →
      step s = .refused .hostAccessWhileBusy) ∧
    (s.status = .busy →
      r ∈ [.readErrKind, .readErrOffset, .readErrPkt, .readErrBlk, .readOutCount, .readObufLen, .readIbufLen, .readPinCount] →
      step s = .refused .hostAccessWhileBusy) ∧
    (¬ (s.status = .done ∧ s.cmd = 0b01) → (∃ k, r = .readOut k) → step s = .refused .resultNotReadable) ∧
    (¬ (s.status = .done ∧ s.cmd = 0b10) → (∃ a, r = .readObuf a) → step s = .refused .resultNotReadable) ∧
    (∀ n b, s.status ≠ .busy → s.cfg.bufMax = some b → b < n → r = .writeIbufLen n → step s = .refused .ibufLenOverMax) ∧
    (∀ b, s.status ≠ .busy → s.cfg.bufMax = some b → b < s.ibufLen → r = .writeCmd 0b01 →
      step s = .refused .ibufLenOverMax) ∧
    (s.status ≠ .busy → r = .writeCmd 0b10 →
      (∃ k, k < s.pinCount ∧ ∀ q, pinRecord s k = .receiverReport q → 31 < q.reports.length) →
      ∃ e, step s = .refused e ∧ ∃ k, e = .encodeOpaque k ∨ e = .encodeTooManyReports k)

/-- R170, R172: the run of an ENCODE whose counters are all in range writes the packets, concatenated in order, to
OBUF[0 ..< OBUF_LEN] and ends in DONE. Every other byte of OBUF, every other store and register are unchanged, but for
K and BLK_INDEX. The whole run is one step (log 1). -/
def Obligations.EncodeWritesTheConcatenatedPackets : Prop :=
  ∀ (s : State) (rs : List ReceiverReport), Running s → s.cmd = 2 → pinRecords s = rs.map .receiverReport →
    (∀ r ∈ rs, r.legal = true) →
    ∃ t, step s = .next t ∧ t.status = .done ∧ t.obufLen = (rs.flatMap packetBytes).length ∧
      (∀ a, a < t.obufLen → Store.read t.obuf a = (rs.flatMap packetBytes)[a]?) ∧
      (∀ a, t.obufLen ≤ a → Store.read t.obuf a = Store.read s.obuf a) ∧
      t = { s with status := .done, obuf := t.obuf, obufLen := t.obufLen,
                   work := { s.work with k := t.work.k, blkIndex := t.work.blkIndex } }

/-- R226, R172: the first block, in packet and then block order, whose counter is out of range ends an ENCODE with
OutOfRange, ERR_PKT and ERR_BLK naming it, ERR_OFFSET = 0, and OBUF_LEN and OUT_COUNT 0 (R33); OBUF and every other store
are unchanged.
K is the model's register for the loop index (log 13), and the whole run is one step (log 1). -/
def Obligations.EncodeRaisesAtTheFirstBlockOutOfRange : Prop :=
  ∀ (s : State) (before after : List ReceiverReport) (r : ReceiverReport) (good bad : List ReportBlock) (b : ReportBlock),
    Running s → s.cmd = 2 → pinRecords s = (before ++ r :: after).map .receiverReport →
    (∀ q ∈ before ++ r :: after, q.reports.length ≤ 31) → (∀ q ∈ before, q.legal = true) →
    r.reports = good ++ b :: bad → (∀ g ∈ good, g.inRange = true) → b.inRange = false →
    step s = .next (encodeErrorState before.length (BitVec.ofNat 5 good.length)
      { s.work with k := before.length, blkIndex := some (BitVec.ofNat 5 good.length) } s)

/-! ## Internal operations -/

/-- R192: SEXT24 gives the signed 24-bit value of its three bytes: `v` if `v < 8388608`, else `v - 16777216`. Nothing else
changes. The result stands in RET, a register of the model (log 11). -/
def Obligations.Sext24GivesTheSignedValue : Prop :=
  ∀ (b0 b1 b2 : Byte) (s : State),
    exec (.sext24 #v[b0, b1, b2]) s = .next { s with ret := some (.int (signed24 b0 b1 b2)) }

/-- R195: TRUNC24 of a value in range gives the three big-endian bytes of `v mod 2^24`; R196: a value outside raises
OutOfRange and never wraps, saturates or truncates. Nothing else changes. The result stands in RET, a register of the model
(log 11); the packet index of the error is that of K (log 13). -/
def Obligations.Trunc24NarrowsOrRaises : Prop :=
  ∀ (v : Int) (s : State),
    (-8388608 ≤ v → v ≤ 8388607 → exec (.trunc24 v) s = .next { s with ret := some (.bytes (bytes24 v)) }) ∧
    (∀ blk, (v < -8388608 ∨ 8388607 < v) → s.work.blkIndex = some blk →
      exec (.trunc24 v) s = .next (encodeErrorState s.work.k blk s.work s))

/-- R191: DECODE_BLOCK reads its seven fields from their places in the 24 bytes, big-endian, the counter signed; it cannot
fail. Nothing else changes. The result stands in RET, a register of the model (log 11). -/
def Obligations.DecodeBlockReadsTheFields : Prop :=
  ∀ (b : Vector Byte 24) (s : State),
    exec (.decodeBlock b) s = .next { s with ret := some (.block
      { ssrc := word32 b[0] b[1] b[2] b[3]
        fractionLost := b[4]
        packetsLost := signed24 b[5] b[6] b[7]
        highestSequence := word32 b[8] b[9] b[10] b[11]
        jitter := word32 b[12] b[13] b[14] b[15]
        lsr := word32 b[16] b[17] b[18] b[19]
        dlsr := word32 b[20] b[21] b[22] b[23] }) }

/-- R194: ENCODE_BLOCK of a block in range gives the fields in order, big-endian; a counter out of range raises OutOfRange
before any byte. Nothing else changes. The result stands in RET, a register of the model (log 11); the packet index of the
error is that of K (log 13). -/
def Obligations.EncodeBlockWritesTheFieldsOrRaises : Prop :=
  ∀ (b : ReportBlock) (s : State),
    (-8388608 ≤ b.packetsLost → b.packetsLost ≤ 8388607 →
      exec (.encodeBlock b) s = .next { s with ret := some (.bytes (blockBytes b)) }) ∧
    (∀ blk, (b.packetsLost < -8388608 ∨ 8388607 < b.packetsLost) → s.work.blkIndex = some blk →
      exec (.encodeBlock b) s = .next (encodeErrorState s.work.k blk s.work s))

/-- R161, R162: DECODE_RR needs exactly `4 + 24 * count` bytes; it reads the sender SSRC and then one block from each
24-byte slice, so that `len(reports) = count`. Another size raises InvalidReceiverReportLength. Only RET and BLK_INDEX
change, or ERR_*, STATE, OUT, OUT_COUNT and OBUF_LEN by the error. The result stands in RET, a register of the model (log 11); that
BLK_INDEX keeps the last index and OUT is empty after the error are the model's (logs 23, 14). -/
def Obligations.DecodeRrReadsTheBody : Prop :=
  ∀ (payload : List Byte) (count : BitVec 5) (s : State),
    (payload.length = 4 + 24 * count.toNat →
      ∃ r : ReceiverReport,
        exec (.decodeRr payload count) s = .next { s with
          ret := some (.report r), work := { s.work with blkIndex := lastBlock s.work.blkIndex count.toNat } } ∧
        r.reports.length = count.toNat ∧
        (∀ b0 b1 b2 b3 rest, payload = b0 :: b1 :: b2 :: b3 :: rest → r.senderSsrc = word32 b0 b1 b2 b3) ∧
        ∀ (j : Nat) (b : Vector Byte 24), j < count.toNat → (payload.drop (4 + 24 * j)).take 24 = b.toList →
          exec (.decodeBlock b) s = .next { s with ret := (r.reports[j]?).map .block }) ∧
    (∀ c n, payload.length ≠ 4 + 24 * count.toNat → s.work.pktStart = some c → s.work.pktIndex = some n →
      exec (.decodeRr payload count) s =
        .next (decodeErrorState .invalidReceiverReportLength c n s.work s))

/-- R166, R165: ENCODE_RR of at most 31 blocks in range gives the sender SSRC and then every block in sequence order,
`4 + 24n` bytes; the first block out of range raises OutOfRange with its index. More than 31 reports are refused (R171).
The result stands in RET, a register of the model (log 11); K and the last BLK_INDEX are the model's (logs 13, 23). -/
def Obligations.EncodeRrWritesTheBodyOrRaises : Prop :=
  ∀ (r : ReceiverReport) (s : State),
    (r.legal = true →
      exec (.encodeRr r) s = .next { s with
        ret := some (.bytes (bodyBytes r)), work := { s.work with blkIndex := lastBlock s.work.blkIndex r.reports.length } } ∧
      (bodyBytes r).length = 4 + 24 * r.reports.length) ∧
    (∀ (good bad : List ReportBlock) (b : ReportBlock), r.reports.length ≤ 31 →
      r.reports = good ++ b :: bad → (∀ g ∈ good, g.inRange = true) → b.inRange = false →
      exec (.encodeRr r) s = .next (encodeErrorState s.work.k (BitVec.ofNat 5 good.length)
        { s.work with blkIndex := some (BitVec.ofNat 5 good.length) } s)) ∧
    (31 < r.reports.length → exec (.encodeRr r) s = .refused (.encodeTooManyReports s.work.k))

/-- R167: WRAP_RR puts the header `0x80 | n`, `0xC9`, `(1 + 6n) >> 8`, `(1 + 6n) & 0xFF` before the body. Nothing else
changes. The result stands in RET, a register of the model (log 11). -/
def Obligations.WrapRrPutsTheHeader : Prop :=
  ∀ (n : BitVec 5) (body : List Byte) (s : State),
    exec (.wrapRr n body) s = .next { s with ret := some (.bytes
      ([BitVec.ofNat 8 (128 + n.toNat), 201, BitVec.ofNat 8 ((1 + 6 * n.toNat) / 256), BitVec.ofNat 8 (1 + 6 * n.toNat)]
        ++ body)) }

/-! ## Laws of the codec -/

/-- R197: TRUNC24 and SEXT24 are inverse to each other, and so are ENCODE_BLOCK and DECODE_BLOCK. SEXT24 maps the byte
triples onto exactly the integers of the range, and it is strictly increasing on each half of the triples. -/
def Obligations.BlockCodecIsInverse : Prop :=
  (∀ r : List Byte, r.length = 3 → -8388608 ≤ sext24 r ∧ sext24 r ≤ 8388607 ∧ trunc24 (sext24 r) = some r) ∧
  (∀ v : Int, -8388608 ≤ v → v ≤ 8388607 → ∃ r, trunc24 v = some r ∧ r.length = 3 ∧ sext24 r = v) ∧
  (∀ b : List Byte, b.length = 24 → encodeBlock (decodeBlock b) = some b) ∧
  (∀ k : ReportBlock, -8388608 ≤ k.packetsLost → k.packetsLost ≤ 8388607 →
    ∃ b, encodeBlock k = some b ∧ b.length = 24 ∧ decodeBlock b = k) ∧
  (∀ q r : List Byte, q.length = 3 → r.length = 3 → beNat q < beNat r →
    beNat r ≤ 0x7FFFFF ∨ 0x800000 ≤ beNat q → sext24 q < sext24 r)

/-- R193: the result of SEXT24 is always in range, so every counter in OUT is in range and its block can be encoded again
without OutOfRange. OUT is that of any state that meets the invariant. -/
def Obligations.DecodedCounterIsInRange : Prop :=
  (∀ r : List Byte, r.length = 3 → -8388608 ≤ sext24 r ∧ sext24 r ≤ 8388607) ∧
  (∀ (s : State) (r : ReceiverReport) (k : ReportBlock), s.Inv → .receiverReport r ∈ s.out → k ∈ r.reports →
    -8388608 ≤ k.packetsLost ∧ k.packetsLost ≤ 8388607 ∧ ∃ b, encodeBlock k = some b)

/-- R168: an encoded RR packet is `8 + 24n` bytes, its length field is `1 + 6n`, and it is a multiple of 4. -/
def Obligations.EncodedPacketSize : Prop :=
  ∀ (r : ReceiverReport) (bytes : List Byte), r.legal = true → encodeFunction [r] = .ok bytes →
    bytes.length = 8 + 24 * r.reports.length ∧ bytes.length % 4 = 0 ∧ bytes.length ≤ 752 ∧
    ∃ n l rest, decode bytes = .ok (.rr 0 n l) ∧ n.toNat = r.reports.length ∧ l.toNat = 1 + 6 * r.reports.length ∧
      bytes.drop 4 = rest ∧ rest.length = 4 * l.toNat

/-- R173 (a): `decode_rr(encode_rr(pkt), len(pkt.reports)) == pkt` for 0 to 31 reports in range. -/
def Obligations.ReceiverReportRoundTrip : Prop :=
  ∀ r : ReceiverReport, r.legal = true →
    ∃ body, encodeRr r = .ok body ∧ decodeRr body (BitVec.ofNat 5 r.reports.length) = some r

/-- R173 (b), (d): DECODE of ENCODE gives back every sequence of Receiver Reports in range, under either policy. -/
def Obligations.DecodeOfEncodeGivesThePackets : Prop :=
  ∀ (policy : Config.Policy) (rs : List ReceiverReport), (∀ r ∈ rs, r.legal = true) →
    ∃ bytes, encodeFunction rs = .ok bytes ∧ decodeFunction policy bytes = .ok (rs.map .receiverReport)

/-- R173 (c), (d): ENCODE of DECODE gives back every buffer that decodes and holds only type-201 packets without padding. -/
def Obligations.EncodeOfDecodeGivesTheBytes : Prop :=
  ∀ (policy : Config.Policy) (bytes : List Byte) (ps : List Packet), PlainReports bytes →
    decodeFunction policy bytes = .ok ps →
    ∃ rs : List ReceiverReport, ps = rs.map .receiverReport ∧ encodeFunction rs = .ok bytes

/-! ## Laws of DECODE -/

/-- R144 (a), (b), (c): a buffer that decodes has a length that is a multiple of 4. Its records are at most its packet
steps, at most one for every 8 bytes under DROP and for every 4 bytes under OPAQUE, and under OPAQUE exactly its packet
steps. -/
def Obligations.DecodeSuccessBounds : Prop :=
  ∀ (bytes : List Byte) (ps : List Packet),
    (∀ policy, decodeFunction policy bytes = .ok ps →
      bytes.length % 4 = 0 ∧ ps.length ≤ packetSteps policy bytes.length bytes) ∧
    (decodeFunction .drop bytes = .ok ps → ps.length ≤ bytes.length / 8) ∧
    (decodeFunction .keepOpaque bytes = .ok ps →
      ps.length ≤ bytes.length / 4 ∧ ps.length = packetSteps .keepOpaque bytes.length bytes)

/-- R144 (d): the result under DROP is the result under OPAQUE with the Opaque records removed, and both policies raise the
same error. -/
def Obligations.PoliciesAgree : Prop :=
  ∀ bytes : List Byte,
    (∀ ps, decodeFunction .keepOpaque bytes = .ok ps →
      decodeFunction .drop bytes = .ok (ps.filter fun p => match p with
        | .receiverReport _ => true
        | .opaqueRecord _ _ => false)) ∧
    (∀ e, decodeFunction .keepOpaque bytes = .error e ↔ decodeFunction .drop bytes = .error e)

/-- R144 (e), (f): DECODE of two buffers one after the other is the concatenation of their results; an error in the second
is reported past the first, whose packets are counted. `steps` is the number of packets of the first buffer, which is the
number of its records under OPAQUE (R144 (c)). -/
def Obligations.DecodeOfConcatenation : Prop :=
  ∀ (policy : Config.Policy) (a b : List Byte) (ps steps : List Packet),
    decodeFunction policy a = .ok ps → decodeFunction .keepOpaque a = .ok steps →
    (∀ qs, decodeFunction policy b = .ok qs → decodeFunction policy (a ++ b) = .ok (ps ++ qs)) ∧
    (∀ e, decodeFunction policy b = .error e →
      decodeFunction policy (a ++ b) =
        .error { kind := e.kind, offset := a.length + e.offset, pkt := steps.length + e.pkt })

/-- R20, R121: the step relation and the function give the same result. From the start of a DECODE with a host that asks
nothing, the steps end in the state that the function of the input bytes and the policy says. They are at most
`floor(IBUF_LEN / 4) + 1`: R143's packet steps, and the step that ends the DECODE, which is the model's (log 1). -/
def Obligations.DecodeStepsComputeTheFunction : Prop :=
  ∀ s : State, s.status ≠ .busy → s.cfg.admits s.ibufLen = true → s.host = [] →
    ∃ (s0 t : State) (n : Nat), exec .decode s = .next s0 ∧ n ≤ s.ibufLen / 4 + 1 ∧
      Sys2Proof.core.run n s0 = .next t ∧
      DecodeResultIs (decodeFunction s.cfg.policy (ibufBytes s 0 s.ibufLen)) t

/-- R46, R20: the result of a DECODE depends on nothing but the input bytes and the policy: two states that agree on those
observe the same after every number of steps, whatever an earlier operation left. -/
def Obligations.DecodeForgetsEarlierOperations : Prop :=
  ∀ (s1 s2 t1 t2 : State) (n : Nat), s1.cfg = s2.cfg → s1.ibufLen = s2.ibufLen →
    (∀ a, a < s1.ibufLen → ibufByte s1 a = ibufByte s2 a) → s1.host = [] → s2.host = [] →
    exec .decode s1 = .next t1 → exec .decode s2 = .next t2 →
    observeDecode (Sys2Proof.core.run n t1) = observeDecode (Sys2Proof.core.run n t2)

/-- R143: every running DECODE of a state that meets the invariant ends: STATE is DONE or ERROR after at most
`floor(IBUF_LEN / 4) + 1` steps, R143's packet steps and the step that ends the DECODE, which is the model's (log 1). -/
def Obligations.DecodeTerminates : Prop :=
  ∀ s : State, s.Inv → s.status = .busy → s.cmd = 1 → s.host = [] →
    ∃ (n : Nat) (t : State), n ≤ s.ibufLen / 4 + 1 ∧ Sys2Proof.core.run n s = .next t ∧
      (t.status = .done ∨ t.status = .error)

/-! ## Whole-machine rules -/

/-- The invariant holds after reset, for every strap value and buffer size. IBUF_LEN is 0 there by the model's choice (log 5),
and the invariant asks that it be at most BUF_MAX (R33). -/
def Obligations.ResetMeetsTheInvariant : Prop :=
  State.reset.Inv ∧ ∀ cfg resetCount host hostData, (State.resetWith cfg resetCount host hostData).Inv

/-- Every step keeps the invariant. -/
def Obligations.EveryStepKeepsTheInvariant : Prop :=
  ∀ s t : State, s.Inv → step s = .next t → t.Inv

/-- R121, R56, R28: from the invariant, a running operation always has a next state: no stuck state, no refusal, no read of
IBUF at or above IBUF_LEN, no read of a working register without a value. -/
def Obligations.RunningOperationNeverStops : Prop :=
  ∀ s : State, s.Inv → Running s → Safe (step s)

/-- R28, R56: from the invariant, the only fault of any step is a host access to an index that the store does not have. -/
def Obligations.OnlyTheHostCanFault : Prop :=
  ∀ (s : State) (f : Fault), s.Inv → step s = .fault f →
    (∃ store index, f = .noSuchAddress store index) ∧ s.status ≠ .busy

/-- R22: a step of a running DECODE moves CUR by at least 4 within the buffer, unless it ends the DECODE. -/
def Obligations.CursorOnlyMovesForward : Prop :=
  ∀ (s t : State) (c : Nat), s.Inv → Running s → s.cmd = 1 → s.work.cur = some c → step s = .next t →
    t.status = .done ∨ t.status = .error ∨
      ∃ c', t.work.cur = some c' ∧ c + 4 ≤ c' ∧ c' ≤ s.ibufLen ∧ c' % 4 = 0 ∧
        s.work.pktIndex.isSome = true ∧ t.work.pktIndex = s.work.pktIndex.map (· + 1)

/-- R31: STATE changes only so: a legal command takes IDLE, DONE or ERROR to BUSY; the end of the operation takes BUSY to
DONE or ERROR; hardware reset (R260) gives IDLE. -/
def Obligations.StateTransitions : Prop :=
  ∀ s t : State, step s = .next t →
    t.status = s.status ∨
    (s.status ≠ .busy ∧ t.status = .busy ∧ ∃ code rest, s.host = .writeCmd code :: rest ∧ (code = 0b01 ∨ code = 0b10)) ∨
    (s.status = .busy ∧ s.hostWaits = true ∧ (t.status = .done ∨ t.status = .error)) ∨
    (t.status = .idle ∧ ∃ rest, s.host = .hardwareReset :: rest)

/-- R34: no step changes the strap or the buffer size. -/
def Obligations.ConfigurationIsStatic : Prop :=
  ∀ s t : State, step s = .next t → t.cfg = s.cfg

/-- R50, R64, R60: a running DECODE never writes IBUF, OBUF or PIN, a running ENCODE never IBUF, OUT or PIN; IBUF_LEN and
PIN_COUNT do not change either. The other operation's count is 0 once the step has raised (R33, R230). That a step which
does not raise leaves it as it was is the model's reading of R33 and R46 (log 21). -/
def Obligations.OperationsStayInTheirStores : Prop :=
  ∀ s t : State, Running s → step s = .next t →
    t.ibuf = s.ibuf ∧ t.ibufLen = s.ibufLen ∧ t.pin = s.pin ∧ t.pinCount = s.pinCount ∧
    (s.cmd = 1 → t.obuf = s.obuf ∧ (t.status ≠ .error → t.obufLen = s.obufLen)) ∧
    (s.cmd = 2 → t.out = s.out ∧ (t.status ≠ .error → t.outCount = s.outCount)) ∧
    (t.status = .error → t.outCount = 0 ∧ t.obufLen = 0)

/-- R230, R231, R172, R33: when a step of an operation raises, no partial result is left to read, OUT_COUNT and OBUF_LEN are
0, and CMD, the inputs and the configuration are as before. A DECODE names one of its four kinds, CUR and PKT_INDEX of the packet, and block 0. An ENCODE
names OutOfRange, offset 0, and the first block out of range, in packet and then block order. -/
def Obligations.ErrorsLeaveNoPartialResult : Prop :=
  ∀ s t : State, s.Inv → Running s → step s = .next t → t.status = .error →
    t.cmd = s.cmd ∧ t.cfg = s.cfg ∧ (∀ a, ibufByte t a = ibufByte s a) ∧ (∀ k, pinRecord t k = pinRecord s k) ∧
    t.outCount = 0 ∧ t.obufLen = 0 ∧
    (s.cmd = 1 → ∃ c n k, s.work.cur = some c ∧ s.work.pktIndex = some n ∧
      t.err = { kind := some k, offset := c, pkt := n, blk := 0 } ∧ k ≠ .outOfRange) ∧
    (s.cmd = 2 → ∃ n j r b, n < s.pinCount ∧ pinRecord s n = .receiverReport r ∧ r.reports[j]? = some b ∧
      b.inRange = false ∧ t.err = { kind := some .outOfRange, offset := 0, pkt := n, blk := BitVec.ofNat 5 j } ∧ j < 31 ∧
      (∀ m q, m < n → pinRecord s m = .receiverReport q → ∀ g ∈ q.reports, g.inRange = true) ∧
      (∀ i g, i < j → r.reports[i]? = some g → g.inRange = true))

/-! ## The host port -/

/-- R45, R260: a hardware reset at any time, during an operation too, gives IDLE, no command, no error, no counts and no
value in a working register; the strap is not affected. That IBUF_LEN and PIN_COUNT are 0 is the model's choice (log 5), and so
is K = 0 (log 13) and that the reset is a request of the host, served between steps (log 25). -/
def Obligations.HardwareResetFromAnyState : Prop :=
  ∀ (s : State) (rest : List HostRequest), s.host = .hardwareReset :: rest →
    ∃ t, step s = .next t ∧ t.cmd = 0 ∧ t.status = .idle ∧ t.err = { kind := none, offset := 0, pkt := 0, blk := 0 } ∧
      t.outCount = 0 ∧ t.obufLen = 0 ∧ t.ibufLen = 0 ∧ t.pinCount = 0 ∧ t.cfg = s.cfg ∧
      t.work = { cur := none, pktIndex := none, pktStart := none, hdr := none, payStart := none, payEnd := none,
                 blkIndex := none, k := 0 } ∧ t.host = rest

/-- R35, R33: while not BUSY, the host's write of bytes to IBUF makes those addresses read the bytes, and every other
address and every other field but the request list are as before; its write of a length that BUF_MAX admits sets IBUF_LEN
and changes nothing else. -/
def Obligations.HostWritesIbufAndItsLength : Prop :=
  ∀ (s : State) (rest : List HostRequest), s.status ≠ .busy →
    (∀ (offset : Nat) (bytes : List Byte), s.host = .writeIbuf offset bytes :: rest →
      s.cfg.admits (offset + bytes.length) = true →
      ∃ t, step s = .next t ∧
        (∀ a, offset ≤ a → a < offset + bytes.length → bytes[a - offset]? = some (ibufByte t a)) ∧
        (∀ a, a < offset ∨ offset + bytes.length ≤ a → ibufByte t a = ibufByte s a) ∧
        t = { s with host := rest, ibuf := t.ibuf }) ∧
    (∀ n : Nat, s.host = .writeIbufLen n :: rest → s.cfg.admits n = true →
      step s = .next { s with host := rest, ibufLen := n })

/-- R36, R33: while not BUSY, the host's write of one record to PIN makes that index read the record, and every other index
and every other field but the request list are as before; its write of a count sets PIN_COUNT and changes nothing else.
That the write succeeds at every index and for every count is the model's choice: PIN has no capacity (log 30). -/
def Obligations.HostWritesPinAndItsCount : Prop :=
  ∀ (s : State) (rest : List HostRequest), s.status ≠ .busy →
    (∀ (index : Nat) (pkt : Packet), s.host = .writePin index pkt :: rest →
      ∃ t, step s = .next t ∧ pinRecord t index = pkt ∧ (∀ k, k ≠ index → pinRecord t k = pinRecord s k) ∧
        t = { s with host := rest, pin := t.pin }) ∧
    (∀ n : Nat, s.host = .writePinCount n :: rest → step s = .next { s with host := rest, pinCount := n })

/-- R35, R36, R273: in DONE the host reads every record of OUT after a DECODE and every byte of OBUF after an ENCODE; a
read changes nothing but what the host has seen. -/
def Obligations.HostReadsResults : Prop :=
  ∀ (s : State) (rest : List HostRequest), s.Inv → s.status = .done →
    (∀ k, s.cmd = 1 → s.host = .readOut k :: rest → k < s.outCount →
      ∃ p, s.out[k]? = some p ∧ step s = .next { s with host := rest, hostData := some (.record p) }) ∧
    (∀ a, s.cmd = 2 → s.host = .readObuf a :: rest → a < s.obufLen →
      ∃ b, Store.read s.obuf a = some b ∧ step s = .next { s with host := rest, hostData := some (.byte b) })

/-- R31, R32, R33, R221: the host reads STATE at any time as 0 IDLE, 1 BUSY, 2 DONE, 3 ERROR. When not BUSY it reads ERR_KIND
as 0 for none and 1 to 5 in the order of the taxonomy, and ERR_OFFSET, ERR_PKT, ERR_BLK, OUT_COUNT and OBUF_LEN as they
stand. A read changes nothing but what the host has seen. That ERR_* can be read outside ERROR is the model's reading (log
20), the counts outside DONE likewise (logs 20, 21), and that IBUF_LEN and PIN_COUNT can be read back is its choice (log
33). -/
def Obligations.HostReadsTheRegisters : Prop :=
  ∀ (s : State) (rest : List HostRequest),
    (s.host = .readState :: rest →
      ∃ n, ReadGives s rest n ∧
        (n = 0 ↔ s.status = .idle) ∧ (n = 1 ↔ s.status = .busy) ∧ (n = 2 ↔ s.status = .done) ∧
        (n = 3 ↔ s.status = .error)) ∧
    (s.status ≠ .busy →
      (s.host = .readErrKind :: rest →
        ∃ n, ReadGives s rest n ∧
          (n = 0 ↔ s.err.kind = none) ∧ (n = 1 ↔ s.err.kind = some .truncated) ∧
          (n = 2 ↔ s.err.kind = some .invalidVersion) ∧ (n = 3 ↔ s.err.kind = some .invalidPadding) ∧
          (n = 4 ↔ s.err.kind = some .invalidReceiverReportLength) ∧ (n = 5 ↔ s.err.kind = some .outOfRange)) ∧
      (s.host = .readErrOffset :: rest → ReadGives s rest s.err.offset) ∧
      (s.host = .readErrPkt :: rest → ReadGives s rest s.err.pkt) ∧
      (s.host = .readErrBlk :: rest → ReadGives s rest s.err.blk.toNat) ∧
      (s.host = .readOutCount :: rest → ReadGives s rest s.outCount) ∧
      (s.host = .readObufLen :: rest → ReadGives s rest s.obufLen) ∧
      (s.host = .readIbufLen :: rest → ReadGives s rest s.ibufLen) ∧
      (s.host = .readPinCount :: rest → ReadGives s rest s.pinCount))

/-! ## Working registers without a value -/

/-- R28: a read of a working register of R22 to R26 that holds no value is a fault of that register's name, not a zero: CUR
and PKT_INDEX in every packet, CUR in a running DECODE, PKT_START and PKT_INDEX where DECODE_RR raises, BLK_INDEX where
TRUNC24 and ENCODE_BLOCK raise. No run reaches these states (RunningOperationNeverStops). -/
def Obligations.AReadOfNoValueFaults : Prop :=
  (∀ (i : Instr) (h : Header) (s : State), i.header = some h →
    (s.work.cur = none → exec i s = .fault (.noValue .cur)) ∧
    (s.work.cur.isSome = true → s.work.pktIndex = none → exec i s = .fault (.noValue .pktIndex))) ∧
  (∀ s : State, Running s → s.cmd = 1 → s.work.cur = none → step s = .fault (.noValue .cur)) ∧
  (∀ (payload : List Byte) (count : BitVec 5) (s : State), payload.length ≠ 4 + 24 * count.toNat →
    (s.work.pktStart = none → exec (.decodeRr payload count) s = .fault (.noValue .pktStart)) ∧
    (s.work.pktStart.isSome = true → s.work.pktIndex = none →
      exec (.decodeRr payload count) s = .fault (.noValue .pktIndex))) ∧
  (∀ (v : Int) (s : State), v < -8388608 ∨ 8388607 < v → s.work.blkIndex = none →
    exec (.trunc24 v) s = .fault (.noValue .blkIndex)) ∧
  (∀ (b : ReportBlock) (s : State), b.packetsLost < -8388608 ∨ 8388607 < b.packetsLost → s.work.blkIndex = none →
    exec (.encodeBlock b) s = .fault (.noValue .blkIndex))
end

