-- ==== Sys2Proof/Laws/Codec.lean ====
section
/-! SUPPORT. What the shared codec functions can do, said once (41_rr_packet_codec.md, 42_report_block_codec.md). -/

namespace Sys2Proof.Machine

/-- `L = 4 * HDR.LENGTH` (R86). -/
theorem payloadSize_eq (h : Header) : payloadSize h = 4 * h.length.toNat := by
  simp [payloadSize]
  omega

/-- TRUNC24 gives three bytes exactly for a value in range (R195, R196). -/
theorem trunc24_cases (v : Int) :
    (Config.lostMin ≤ v ∧ v ≤ Config.lostMax ∧ ∃ l, trunc24 v = some l ∧ l.length = 3) ∨
    (¬ (Config.lostMin ≤ v ∧ v ≤ Config.lostMax) ∧ trunc24 v = none) := by
  unfold trunc24
  by_cases h : Config.lostMin ≤ v ∧ v ≤ Config.lostMax
  · exact .inl ⟨h.1, h.2, _, if_pos h, rfl⟩
  · exact .inr ⟨h, if_neg h⟩

/-- ENCODE_BLOCK gives 24 bytes exactly for a block in range (R194). -/
theorem encodeBlock_cases (b : ReportBlock) :
    (b.inRange = true ∧ ∃ l, encodeBlock b = some l ∧ l.length = 24) ∨ (b.inRange = false ∧ encodeBlock b = none) := by
  unfold encodeBlock
  rcases trunc24_cases b.packetsLost with ⟨h1, h2, l, hl, h3⟩ | ⟨h, hl⟩
  · refine .inl ⟨by simp [ReportBlock.inRange] at *; omega, _, by rw [hl], ?_⟩
    simp [beBytes32, h3]
  · exact .inr ⟨by simp [ReportBlock.inRange] at *; omega, by rw [hl]⟩

/-- The block loop over blocks in range gives 24 bytes for each (R166). -/
theorem encodeBlocks_ok (bs : List ReportBlock) (h : ∀ b ∈ bs, b.inRange = true) (i : Nat) :
    ∃ l, encodeBlocks i bs = .ok l ∧ l.length = 24 * bs.length := by
  induction bs generalizing i with
  | nil => exact ⟨[], rfl, rfl⟩
  | cons b bs ih =>
    obtain ⟨rest, hr, hl⟩ := ih (fun x hx => h x (by simp [hx])) (i + 1)
    rcases encodeBlock_cases b with ⟨_, l, hb, hl2⟩ | ⟨hb, _⟩
    · refine ⟨l ++ rest, by simp [encodeBlocks, hb, hr], ?_⟩
      simp only [List.length_append, List.length_cons]
      omega
    · simp [h b (by simp)] at hb

/-- The block loop names the first block out of range (R166, R226). -/
theorem encodeBlocks_error (good bad : List ReportBlock) (b : ReportBlock) (hg : ∀ g ∈ good, g.inRange = true)
    (hb : b.inRange = false) (i : Nat) : encodeBlocks i (good ++ b :: bad) = .error (i + good.length) := by
  induction good generalizing i with
  | nil =>
    rcases encodeBlock_cases b with ⟨h, _⟩ | ⟨_, h⟩
    · simp [h] at hb
    · simp [encodeBlocks, h]
  | cons g good ih =>
    have := ih (fun x hx => hg x (by simp [hx])) (i + 1)
    rcases encodeBlock_cases g with ⟨_, l, hl, _⟩ | ⟨h, _⟩
    · simp only [List.cons_append, encodeBlocks, hl, this, List.length_cons, Except.error.injEq]
      omega
    · simp [hg g (by simp)] at h

/-- DECODE_RR gives `count` blocks for a body of `4 + 24 * count` bytes, and nothing for any other (R161, R162). -/
theorem decodeRr_cases (payload : List Byte) (count : BitVec 5) :
    (payload.length = 4 + 24 * count.toNat ∧ ∃ r, decodeRr payload count = some r ∧ r.reports.length = count.toNat) ∨
    (payload.length ≠ 4 + 24 * count.toNat ∧ decodeRr payload count = none) := by
  unfold decodeRr
  by_cases h : payload.length = rrBodySize count
  · exact .inl ⟨by simpa [rrBodySize] using h, _, if_pos h, by simp⟩
  · exact .inr ⟨by simpa [rrBodySize] using h, if_neg h⟩

/-- ENCODE accepts every sequence of Receiver Reports of at most 31 reports (R171). -/
theorem acceptPackets_ok (rs : List ReceiverReport) (h : ∀ r ∈ rs, r.fits = true) (k : Nat) :
    acceptPackets k (rs.map .receiverReport) = .ok rs := by
  induction rs generalizing k with
  | nil => rfl
  | cons r rs ih =>
    simp only [List.map_cons, acceptPackets, h r (by simp), if_true, ih (fun x hx => h x (by simp [hx]))]

/-- ENCODE accepts nothing else (R171). -/
theorem acceptPackets_sound (ps : List Packet) (rs : List ReceiverReport) (k : Nat) (h : acceptPackets k ps = .ok rs) :
    ps = rs.map .receiverReport ∧ ∀ r ∈ rs, r.fits = true := by
  induction ps generalizing rs k with
  | nil =>
    simp only [acceptPackets, Except.ok.injEq] at h
    subst h
    simp
  | cons p ps ih =>
    cases p with
    | opaqueRecord pt payload => simp [acceptPackets] at h
    | receiverReport r =>
      simp only [acceptPackets] at h
      split at h
      · split at h
        · simp at h
        · rename_i hf _ rs' hrs
          simp only [Except.ok.injEq] at h
          subst h
          obtain ⟨h1, h2⟩ := ih rs' (k + 1) hrs
          exact ⟨by simp [h1], by simpa [hf] using h2⟩
      · simp at h

end Sys2Proof.Machine
end

