-- ==== Sys2Proof/Laws/Decode.lean ====
section
/-! SUPPORT. The laws of the header codec: the four header bytes and the header view determine each other, and so do the
header view and the instruction (30_encoding.md R81, R91, R99). -/

namespace Sys2Proof

/-- Format H's first byte gives back its three fields (R81, R124). -/
theorem byte0_fields : ∀ (v : BitVec 2) (p : BitVec 1) (count : BitVec 5),
    ((v ++ p ++ count : BitVec 8) >>> 6).setWidth 2 = v ∧
    (((v ++ p ++ count : BitVec 8) >>> 5) &&& 1).setWidth 1 = p ∧
    ((v ++ p ++ count : BitVec 8) &&& 0x1F).setWidth 5 = count := by
  decide +kernel

/-- The three fields of a byte give back the byte. -/
theorem byte0_join : ∀ b : Byte,
    ((b >>> 6).setWidth 2 ++ ((b >>> 5) &&& 1).setWidth 1 ++ (b &&& 0x1F).setWidth 5 : BitVec 8) = b := by
  decide +kernel

/-- The value of two bytes, high byte first (R51). -/
theorem be16_toNat (a b : Byte) : (a ++ b : BitVec 16).toNat = a.toNat * 256 + b.toNat := by
  rw [BitVec.toNat_append, ← Nat.shiftLeft_add_eq_or_of_lt (by omega), Nat.shiftLeft_eq]

/-- The two bytes of a length give back the length. -/
theorem be16_join (l : BitVec 16) : (l.extractLsb' 8 8 ++ l.extractLsb' 0 8 : BitVec 16) = l := by
  apply BitVec.eq_of_toNat_eq
  rw [be16_toNat]
  simp [Nat.shiftRight_eq_div_pow]
  omega

/-- The length of two bytes gives back the bytes. -/
theorem be16_split (a b : Byte) :
    (a ++ b : BitVec 16).extractLsb' 8 8 = a ∧ (a ++ b : BitVec 16).extractLsb' 0 8 = b := by
  constructor <;>
    (apply BitVec.eq_of_toNat_eq
     simp only [BitVec.extractLsb'_toNat, be16_toNat, Nat.shiftRight_eq_div_pow]
     omega)

/-- A header is four bytes, and they give back the header (R81). -/
theorem Header.ofBytes_toBytes (h : Header) :
    ∃ b0 b1 b2 b3, h.toBytes = [b0, b1, b2, b3] ∧ Header.ofBytes b0 b1 b2 b3 = h := by
  obtain ⟨v, p, count, pt, length⟩ := h
  refine ⟨_, _, _, _, rfl, ?_⟩
  have := byte0_fields v p count
  simp only [Header.ofBytes, Header.mk.injEq, true_and, be16_join]
  simp_all

/-- Four bytes give a header, and it gives back the bytes (R81). -/
theorem Header.toBytes_ofBytes (b0 b1 b2 b3 : Byte) : (Header.ofBytes b0 b1 b2 b3).toBytes = [b0, b1, b2, b3] := by
  simp only [Header.ofBytes, Header.toBytes, be16_split b2 b3, byte0_join]

/-- Every header selects a well-formed packet row with that header view (R91, R99). -/
theorem Header.toInstr_view (h : Header) :
    h.toInstr.header = some h ∧ h.toInstr.wellFormed = true ∧ h.toInstr.format = .header := by
  obtain ⟨v, p, count, pt, length⟩ := h
  have hv : v = 0 ∨ v = 1 ∨ v = 2 ∨ v = 3 := by revert v; decide
  rcases hv with rfl | rfl | rfl | rfl
  · simp [Header.toInstr, Instr.header, Instr.wellFormed, Instr.format]
  · simp [Header.toInstr, Instr.header, Instr.wellFormed, Instr.format]
  · change (selectType p count pt length).header = some _ ∧ (selectType p count pt length).wellFormed = true ∧
      (selectType p count pt length).format = .header
    unfold selectType
    split; · simp_all [Instr.header, Instr.wellFormed, Instr.format]
    split; · simp_all [Instr.header, Instr.wellFormed, Instr.format]
    split; · simp_all [Instr.header, Instr.wellFormed, Instr.format]
    split; · simp_all [Instr.header, Instr.wellFormed, Instr.format]
    split; · simp_all [Instr.header, Instr.wellFormed, Instr.format]
    split; · simp_all [Instr.header, Instr.wellFormed, Instr.format]
    simp_all [Instr.header, Instr.wellFormed, Instr.format, isNamedType]
  · simp [Header.toInstr, Instr.header, Instr.wellFormed, Instr.format]

/-- A well-formed packet row is the row that its header selects. -/
theorem Instr.toInstr_of_header (i : Instr) (h : Header) (hw : i.wellFormed = true) (hi : i.header = some h) :
    h.toInstr = i := by
  cases i <;> simp [Instr.header] at hi <;> subst hi <;>
    simp_all [Header.toInstr, selectType, Instr.wellFormed, isNamedType]

/-- The rows of format H are those with a header view. -/
theorem Instr.header_of_format (i : Instr) (hf : i.format = .header) : ∃ h, i.header = some h := by
  cases i <;> simp [Instr.format] at hf <;> simp [Instr.header]

end Sys2Proof
end

