-- ==== Sys2Proof/Laws/State.lean ====
section
/-! SUPPORT. What each named state update does to each field, true by rfl: later proofs unfold no record update. -/

namespace Sys2Proof.Machine

@[simp] theorem raiseError_inIbuf_cmd (k : ErrorKind) (offset pkt : Nat) (s : State) :
    (raiseError k (.inIbuf offset pkt) s).cmd = s.cmd := rfl

@[simp] theorem raiseError_inIbuf_status (k : ErrorKind) (offset pkt : Nat) (s : State) :
    (raiseError k (.inIbuf offset pkt) s).status = .error := rfl

@[simp] theorem raiseError_inIbuf_err (k : ErrorKind) (offset pkt : Nat) (s : State) :
    (raiseError k (.inIbuf offset pkt) s).err = { kind := some k, offset := offset, pkt := pkt, blk := 0 } := rfl

@[simp] theorem raiseError_inIbuf_ibufLen (k : ErrorKind) (offset pkt : Nat) (s : State) :
    (raiseError k (.inIbuf offset pkt) s).ibufLen = s.ibufLen := rfl

@[simp] theorem raiseError_inIbuf_outCount (k : ErrorKind) (offset pkt : Nat) (s : State) :
    (raiseError k (.inIbuf offset pkt) s).outCount = 0 := rfl

@[simp] theorem raiseError_inIbuf_pinCount (k : ErrorKind) (offset pkt : Nat) (s : State) :
    (raiseError k (.inIbuf offset pkt) s).pinCount = s.pinCount := rfl

@[simp] theorem raiseError_inIbuf_obufLen (k : ErrorKind) (offset pkt : Nat) (s : State) :
    (raiseError k (.inIbuf offset pkt) s).obufLen = 0 := rfl

@[simp] theorem raiseError_inIbuf_cfg (k : ErrorKind) (offset pkt : Nat) (s : State) :
    (raiseError k (.inIbuf offset pkt) s).cfg = s.cfg := rfl

@[simp] theorem raiseError_inIbuf_ibuf (k : ErrorKind) (offset pkt : Nat) (s : State) :
    (raiseError k (.inIbuf offset pkt) s).ibuf = s.ibuf := rfl

@[simp] theorem raiseError_inIbuf_obuf (k : ErrorKind) (offset pkt : Nat) (s : State) :
    (raiseError k (.inIbuf offset pkt) s).obuf = s.obuf := rfl

@[simp] theorem raiseError_inIbuf_out (k : ErrorKind) (offset pkt : Nat) (s : State) :
    (raiseError k (.inIbuf offset pkt) s).out = [] := rfl

@[simp] theorem raiseError_inIbuf_pin (k : ErrorKind) (offset pkt : Nat) (s : State) :
    (raiseError k (.inIbuf offset pkt) s).pin = s.pin := rfl

@[simp] theorem raiseError_inIbuf_work (k : ErrorKind) (offset pkt : Nat) (s : State) :
    (raiseError k (.inIbuf offset pkt) s).work = s.work := rfl

@[simp] theorem raiseError_inIbuf_ret (k : ErrorKind) (offset pkt : Nat) (s : State) :
    (raiseError k (.inIbuf offset pkt) s).ret = s.ret := rfl

@[simp] theorem raiseError_inIbuf_resetCount (k : ErrorKind) (offset pkt : Nat) (s : State) :
    (raiseError k (.inIbuf offset pkt) s).resetCount = s.resetCount := rfl

@[simp] theorem raiseError_inIbuf_host (k : ErrorKind) (offset pkt : Nat) (s : State) :
    (raiseError k (.inIbuf offset pkt) s).host = s.host := rfl

@[simp] theorem raiseError_inIbuf_hostData (k : ErrorKind) (offset pkt : Nat) (s : State) :
    (raiseError k (.inIbuf offset pkt) s).hostData = s.hostData := rfl

@[simp] theorem raiseError_inPin_cmd (k : ErrorKind) (pkt : Nat) (blk : BitVec 5) (s : State) :
    (raiseError k (.inPin pkt blk) s).cmd = s.cmd := rfl

@[simp] theorem raiseError_inPin_status (k : ErrorKind) (pkt : Nat) (blk : BitVec 5) (s : State) :
    (raiseError k (.inPin pkt blk) s).status = .error := rfl

@[simp] theorem raiseError_inPin_err (k : ErrorKind) (pkt : Nat) (blk : BitVec 5) (s : State) :
    (raiseError k (.inPin pkt blk) s).err = { kind := some k, offset := 0, pkt := pkt, blk := blk } := rfl

@[simp] theorem raiseError_inPin_ibufLen (k : ErrorKind) (pkt : Nat) (blk : BitVec 5) (s : State) :
    (raiseError k (.inPin pkt blk) s).ibufLen = s.ibufLen := rfl

@[simp] theorem raiseError_inPin_outCount (k : ErrorKind) (pkt : Nat) (blk : BitVec 5) (s : State) :
    (raiseError k (.inPin pkt blk) s).outCount = 0 := rfl

@[simp] theorem raiseError_inPin_pinCount (k : ErrorKind) (pkt : Nat) (blk : BitVec 5) (s : State) :
    (raiseError k (.inPin pkt blk) s).pinCount = s.pinCount := rfl

@[simp] theorem raiseError_inPin_obufLen (k : ErrorKind) (pkt : Nat) (blk : BitVec 5) (s : State) :
    (raiseError k (.inPin pkt blk) s).obufLen = 0 := rfl

@[simp] theorem raiseError_inPin_cfg (k : ErrorKind) (pkt : Nat) (blk : BitVec 5) (s : State) :
    (raiseError k (.inPin pkt blk) s).cfg = s.cfg := rfl

@[simp] theorem raiseError_inPin_ibuf (k : ErrorKind) (pkt : Nat) (blk : BitVec 5) (s : State) :
    (raiseError k (.inPin pkt blk) s).ibuf = s.ibuf := rfl

@[simp] theorem raiseError_inPin_obuf (k : ErrorKind) (pkt : Nat) (blk : BitVec 5) (s : State) :
    (raiseError k (.inPin pkt blk) s).obuf = s.obuf := rfl

@[simp] theorem raiseError_inPin_out (k : ErrorKind) (pkt : Nat) (blk : BitVec 5) (s : State) :
    (raiseError k (.inPin pkt blk) s).out = s.out := rfl

@[simp] theorem raiseError_inPin_pin (k : ErrorKind) (pkt : Nat) (blk : BitVec 5) (s : State) :
    (raiseError k (.inPin pkt blk) s).pin = s.pin := rfl

@[simp] theorem raiseError_inPin_work (k : ErrorKind) (pkt : Nat) (blk : BitVec 5) (s : State) :
    (raiseError k (.inPin pkt blk) s).work = s.work := rfl

@[simp] theorem raiseError_inPin_ret (k : ErrorKind) (pkt : Nat) (blk : BitVec 5) (s : State) :
    (raiseError k (.inPin pkt blk) s).ret = s.ret := rfl

@[simp] theorem raiseError_inPin_resetCount (k : ErrorKind) (pkt : Nat) (blk : BitVec 5) (s : State) :
    (raiseError k (.inPin pkt blk) s).resetCount = s.resetCount := rfl

@[simp] theorem raiseError_inPin_host (k : ErrorKind) (pkt : Nat) (blk : BitVec 5) (s : State) :
    (raiseError k (.inPin pkt blk) s).host = s.host := rfl

@[simp] theorem raiseError_inPin_hostData (k : ErrorKind) (pkt : Nat) (blk : BitVec 5) (s : State) :
    (raiseError k (.inPin pkt blk) s).hostData = s.hostData := rfl

@[simp] theorem beginDecode_cmd (s : State) :
    (beginDecode s).cmd = 1 := rfl

@[simp] theorem beginDecode_status (s : State) :
    (beginDecode s).status = .busy := rfl

@[simp] theorem beginDecode_err (s : State) :
    (beginDecode s).err = ErrRegs.zero := rfl

@[simp] theorem beginDecode_ibufLen (s : State) :
    (beginDecode s).ibufLen = s.ibufLen := rfl

@[simp] theorem beginDecode_outCount (s : State) :
    (beginDecode s).outCount = 0 := rfl

@[simp] theorem beginDecode_pinCount (s : State) :
    (beginDecode s).pinCount = s.pinCount := rfl

@[simp] theorem beginDecode_obufLen (s : State) :
    (beginDecode s).obufLen = s.obufLen := rfl

@[simp] theorem beginDecode_cfg (s : State) :
    (beginDecode s).cfg = s.cfg := rfl

@[simp] theorem beginDecode_ibuf (s : State) :
    (beginDecode s).ibuf = s.ibuf := rfl

@[simp] theorem beginDecode_obuf (s : State) :
    (beginDecode s).obuf = s.obuf := rfl

@[simp] theorem beginDecode_out (s : State) :
    (beginDecode s).out = [] := rfl

@[simp] theorem beginDecode_pin (s : State) :
    (beginDecode s).pin = s.pin := rfl

@[simp] theorem beginDecode_work (s : State) :
    (beginDecode s).work = { Work.blank with cur := some 0, pktIndex := some 0 } := rfl

@[simp] theorem beginDecode_ret (s : State) :
    (beginDecode s).ret = s.ret := rfl

@[simp] theorem beginDecode_resetCount (s : State) :
    (beginDecode s).resetCount = s.resetCount := rfl

@[simp] theorem beginDecode_host (s : State) :
    (beginDecode s).host = s.host := rfl

@[simp] theorem beginDecode_hostData (s : State) :
    (beginDecode s).hostData = s.hostData := rfl

@[simp] theorem beginEncode_cmd (s : State) :
    (beginEncode s).cmd = 2 := rfl

@[simp] theorem beginEncode_status (s : State) :
    (beginEncode s).status = .busy := rfl

@[simp] theorem beginEncode_err (s : State) :
    (beginEncode s).err = ErrRegs.zero := rfl

@[simp] theorem beginEncode_ibufLen (s : State) :
    (beginEncode s).ibufLen = s.ibufLen := rfl

@[simp] theorem beginEncode_outCount (s : State) :
    (beginEncode s).outCount = s.outCount := rfl

@[simp] theorem beginEncode_pinCount (s : State) :
    (beginEncode s).pinCount = s.pinCount := rfl

@[simp] theorem beginEncode_obufLen (s : State) :
    (beginEncode s).obufLen = 0 := rfl

@[simp] theorem beginEncode_cfg (s : State) :
    (beginEncode s).cfg = s.cfg := rfl

@[simp] theorem beginEncode_ibuf (s : State) :
    (beginEncode s).ibuf = s.ibuf := rfl

@[simp] theorem beginEncode_obuf (s : State) :
    (beginEncode s).obuf = s.obuf := rfl

@[simp] theorem beginEncode_out (s : State) :
    (beginEncode s).out = s.out := rfl

@[simp] theorem beginEncode_pin (s : State) :
    (beginEncode s).pin = s.pin := rfl

@[simp] theorem beginEncode_work (s : State) :
    (beginEncode s).work = Work.blank := rfl

@[simp] theorem beginEncode_ret (s : State) :
    (beginEncode s).ret = s.ret := rfl

@[simp] theorem beginEncode_resetCount (s : State) :
    (beginEncode s).resetCount = s.resetCount := rfl

@[simp] theorem beginEncode_host (s : State) :
    (beginEncode s).host = s.host := rfl

@[simp] theorem beginEncode_hostData (s : State) :
    (beginEncode s).hostData = s.hostData := rfl

@[simp] theorem finishDecode_cmd (s : State) :
    (finishDecode s).cmd = s.cmd := rfl

@[simp] theorem finishDecode_status (s : State) :
    (finishDecode s).status = .done := rfl

@[simp] theorem finishDecode_err (s : State) :
    (finishDecode s).err = s.err := rfl

@[simp] theorem finishDecode_ibufLen (s : State) :
    (finishDecode s).ibufLen = s.ibufLen := rfl

@[simp] theorem finishDecode_outCount (s : State) :
    (finishDecode s).outCount = s.out.length := rfl

@[simp] theorem finishDecode_pinCount (s : State) :
    (finishDecode s).pinCount = s.pinCount := rfl

@[simp] theorem finishDecode_obufLen (s : State) :
    (finishDecode s).obufLen = s.obufLen := rfl

@[simp] theorem finishDecode_cfg (s : State) :
    (finishDecode s).cfg = s.cfg := rfl

@[simp] theorem finishDecode_ibuf (s : State) :
    (finishDecode s).ibuf = s.ibuf := rfl

@[simp] theorem finishDecode_obuf (s : State) :
    (finishDecode s).obuf = s.obuf := rfl

@[simp] theorem finishDecode_out (s : State) :
    (finishDecode s).out = s.out := rfl

@[simp] theorem finishDecode_pin (s : State) :
    (finishDecode s).pin = s.pin := rfl

@[simp] theorem finishDecode_work (s : State) :
    (finishDecode s).work = s.work := rfl

@[simp] theorem finishDecode_ret (s : State) :
    (finishDecode s).ret = s.ret := rfl

@[simp] theorem finishDecode_resetCount (s : State) :
    (finishDecode s).resetCount = s.resetCount := rfl

@[simp] theorem finishDecode_host (s : State) :
    (finishDecode s).host = s.host := rfl

@[simp] theorem finishDecode_hostData (s : State) :
    (finishDecode s).hostData = s.hostData := rfl

@[simp] theorem finishEncode_cmd (acc : List Byte) (s : State) :
    (finishEncode acc s).cmd = s.cmd := rfl

@[simp] theorem finishEncode_status (acc : List Byte) (s : State) :
    (finishEncode acc s).status = .done := rfl

@[simp] theorem finishEncode_err (acc : List Byte) (s : State) :
    (finishEncode acc s).err = s.err := rfl

@[simp] theorem finishEncode_ibufLen (acc : List Byte) (s : State) :
    (finishEncode acc s).ibufLen = s.ibufLen := rfl

@[simp] theorem finishEncode_outCount (acc : List Byte) (s : State) :
    (finishEncode acc s).outCount = s.outCount := rfl

@[simp] theorem finishEncode_pinCount (acc : List Byte) (s : State) :
    (finishEncode acc s).pinCount = s.pinCount := rfl

@[simp] theorem finishEncode_obufLen (acc : List Byte) (s : State) :
    (finishEncode acc s).obufLen = acc.length := rfl

@[simp] theorem finishEncode_cfg (acc : List Byte) (s : State) :
    (finishEncode acc s).cfg = s.cfg := rfl

@[simp] theorem finishEncode_ibuf (acc : List Byte) (s : State) :
    (finishEncode acc s).ibuf = s.ibuf := rfl

@[simp] theorem finishEncode_obuf (acc : List Byte) (s : State) :
    (finishEncode acc s).obuf = Store.write s.obuf 0 acc := rfl

@[simp] theorem finishEncode_out (acc : List Byte) (s : State) :
    (finishEncode acc s).out = s.out := rfl

@[simp] theorem finishEncode_pin (acc : List Byte) (s : State) :
    (finishEncode acc s).pin = s.pin := rfl

@[simp] theorem finishEncode_work (acc : List Byte) (s : State) :
    (finishEncode acc s).work = s.work := rfl

@[simp] theorem finishEncode_ret (acc : List Byte) (s : State) :
    (finishEncode acc s).ret = s.ret := rfl

@[simp] theorem finishEncode_resetCount (acc : List Byte) (s : State) :
    (finishEncode acc s).resetCount = s.resetCount := rfl

@[simp] theorem finishEncode_host (acc : List Byte) (s : State) :
    (finishEncode acc s).host = s.host := rfl

@[simp] theorem finishEncode_hostData (acc : List Byte) (s : State) :
    (finishEncode acc s).hostData = s.hostData := rfl

@[simp] theorem hardwareReset_cmd (s : State) :
    (hardwareReset s).cmd = 0 := rfl

@[simp] theorem hardwareReset_status (s : State) :
    (hardwareReset s).status = .idle := rfl

@[simp] theorem hardwareReset_err (s : State) :
    (hardwareReset s).err = ErrRegs.zero := rfl

@[simp] theorem hardwareReset_ibufLen (s : State) :
    (hardwareReset s).ibufLen = 0 := rfl

@[simp] theorem hardwareReset_outCount (s : State) :
    (hardwareReset s).outCount = 0 := rfl

@[simp] theorem hardwareReset_pinCount (s : State) :
    (hardwareReset s).pinCount = 0 := rfl

@[simp] theorem hardwareReset_obufLen (s : State) :
    (hardwareReset s).obufLen = 0 := rfl

@[simp] theorem hardwareReset_cfg (s : State) :
    (hardwareReset s).cfg = s.cfg := rfl

@[simp] theorem hardwareReset_ibuf (s : State) :
    (hardwareReset s).ibuf = [] := rfl

@[simp] theorem hardwareReset_obuf (s : State) :
    (hardwareReset s).obuf = [] := rfl

@[simp] theorem hardwareReset_out (s : State) :
    (hardwareReset s).out = [] := rfl

@[simp] theorem hardwareReset_pin (s : State) :
    (hardwareReset s).pin = [] := rfl

@[simp] theorem hardwareReset_work (s : State) :
    (hardwareReset s).work = Work.blank := rfl

@[simp] theorem hardwareReset_ret (s : State) :
    (hardwareReset s).ret = none := rfl

@[simp] theorem hardwareReset_resetCount (s : State) :
    (hardwareReset s).resetCount = s.resetCount + 1 := rfl

@[simp] theorem hardwareReset_host (s : State) :
    (hardwareReset s).host = s.host := rfl

@[simp] theorem hardwareReset_hostData (s : State) :
    (hardwareReset s).hostData = s.hostData := rfl

end Sys2Proof.Machine
end

