-- ==== Sys2Proof/Laws/Ops.lean ====
section
/-! SUPPORT. The laws of the shared operations: stores, MemRead, sub-steps and raising. -/

namespace Sys2Proof.Machine

/-! ## Stores -/

theorem Store.read_append {α : Type} (m n : List (Nat × α)) (x : Nat) :
    Store.read (m ++ n) x = (Store.read m x).or (Store.read n x) := by
  induction m with
  | nil => simp [Store.read]
  | cons c m ih =>
    obtain ⟨b, v⟩ := c
    by_cases h : x = b <;> simp [Store.read, h, ih]

/-- A filter on indexes hides exactly the indexes it drops. -/
theorem Store.read_filter {α : Type} (keep : Nat → Bool) (m : List (Nat × α)) (x : Nat) :
    Store.read (m.filter fun c => keep c.1) x = if keep x then Store.read m x else none := by
  induction m with
  | nil => simp [Store.read]
  | cons c m ih =>
    obtain ⟨b, v⟩ := c
    by_cases hb : keep b = true
    · by_cases h : x = b
      · subst h; simp [Store.read, hb]
      · simp [Store.read, hb, h, ih]
    · by_cases h : x = b
      · subst h; simp [hb, ih]
      · simp [Store.read, hb, h, ih]

theorem Store.read_cells {α : Type} (a : Nat) (vs : List α) (x : Nat) :
    Store.read (Store.cells a vs) x = if a ≤ x then vs[x - a]? else none := by
  induction vs generalizing a with
  | nil => simp [Store.cells, Store.read]
  | cons v vs ih =>
    by_cases h : x = a
    · subst h; simp [Store.cells, Store.read]
    · by_cases h2 : a ≤ x
      · obtain ⟨d, rfl⟩ : ∃ d, x = a + 1 + d := ⟨x - (a + 1), by omega⟩
        simp [Store.cells, Store.read, ih, show a + 1 + d ≠ a by omega, show a + 1 + d - a = d + 1 by omega]
        omega
      · simp [Store.cells, Store.read, ih, h, h2, show ¬ a + 1 ≤ x by omega]

/-- Read after write: the run that was written reads back, every other index reads as before. -/
theorem Store.read_write {α : Type} (m : List (Nat × α)) (a : Nat) (vs : List α) (x : Nat) :
    Store.read (Store.write m a vs) x =
      if a ≤ x ∧ x < a + vs.length then vs[x - a]? else Store.read m x := by
  unfold Store.write
  rw [Store.read_append, Store.read_append, Store.read_cells,
    Store.read_filter (fun i => decide (i < a)), Store.read_filter (fun i => decide (a + vs.length ≤ i))]
  by_cases h1 : x < a
  · cases hm : Store.read m x <;>
      simp [h1, show ¬ a ≤ x by omega, show ¬ a + vs.length ≤ x by omega]
  · by_cases h2 : x < a + vs.length
    · simp [h1, h2, show a ≤ x by omega, show ¬ a + vs.length ≤ x by omega, show x - a < vs.length by omega]
    · simp [h1, h2, show a ≤ x by omega, show a + vs.length ≤ x by omega, show vs.length ≤ x - a by omega]

theorem Store.cells_ge {α : Type} (a : Nat) (vs : List α) : ∀ c ∈ Store.cells a vs, a ≤ c.1 ∧ c.1 < a + vs.length := by
  induction vs generalizing a with
  | nil => simp [Store.cells]
  | cons v vs ih =>
    intro c hc
    simp only [Store.cells, List.mem_cons] at hc
    rcases hc with rfl | hc
    · simp
    · have := ih (a + 1) c hc
      simp only [List.length_cons]
      omega

theorem Store.wf_cells {α : Type} (a : Nat) (vs : List α) : Store.wf (Store.cells a vs) := by
  induction vs generalizing a with
  | nil => simp [Store.cells]
  | cons v vs ih =>
    simp only [Store.wf, Store.cells, List.pairwise_cons]
    exact ⟨fun c hc => by have := Store.cells_ge (a + 1) vs c hc; omega, ih (a + 1)⟩

/-- A write keeps the canonical form. -/
theorem Store.wf_write {α : Type} (m : List (Nat × α)) (a : Nat) (vs : List α) (h : Store.wf m) :
    Store.wf (Store.write m a vs) := by
  unfold Store.write Store.wf
  rw [List.pairwise_append, List.pairwise_append]
  refine ⟨⟨h.filter _, Store.wf_cells a vs, ?_⟩, h.filter _, ?_⟩
  · intro x hx y hy
    have := Store.cells_ge a vs y hy
    simp only [List.mem_filter, decide_eq_true_eq] at hx
    omega
  · intro x hx y hy
    simp only [List.mem_append, List.mem_filter, decide_eq_true_eq] at hx hy
    rcases hx with hx | hx
    · omega
    · have := Store.cells_ge a vs x hx
      omega

/-! ## MemRead -/

@[simp] theorem ibufBytes_length (s : State) (a n : Nat) : (ibufBytes s a n).length = n := by
  simp [ibufBytes]

theorem ibufBytes_getElem? (s : State) (a n i : Nat) :
    (ibufBytes s a n)[i]? = if i < n then some (ibufByte s (a + i)) else none := by
  simp only [ibufBytes, List.getElem?_map]
  by_cases h : i < n <;> simp [h]

/-- A shorter run is a prefix of a longer one (R53). -/
theorem ibufBytes_take (s : State) (a n m : Nat) (h : m ≤ n) : (ibufBytes s a n).take m = ibufBytes s a m := by
  apply List.ext_getElem?
  intro i
  rw [List.getElem?_take, ibufBytes_getElem?, ibufBytes_getElem?]
  by_cases h1 : i < m <;> simp [h1]
  omega

theorem ibufBytes_drop (s : State) (a n m : Nat) : (ibufBytes s a n).drop m = ibufBytes s (a + m) (n - m) := by
  apply List.ext_getElem?
  intro i
  rw [List.getElem?_drop, ibufBytes_getElem?, ibufBytes_getElem?]
  by_cases h1 : i < n - m
  · simp [h1, show m + i < n by omega, Nat.add_assoc]
  · simp [h1, show ¬ m + i < n by omega]

theorem ibufBytes_add (s : State) (a m n : Nat) : ibufBytes s a (m + n) = ibufBytes s a m ++ ibufBytes s (a + m) n := by
  have h1 := List.take_append_drop m (ibufBytes s a (m + n))
  rw [ibufBytes_take s a _ m (by omega), ibufBytes_drop] at h1
  simpa using h1.symm

theorem ibufBytes_one (s : State) (a : Nat) : ibufBytes s a 1 = [ibufByte s a] := by
  simp [ibufBytes]

theorem ibufBytes_four (s : State) (a : Nat) :
    ibufBytes s a 4 = [ibufByte s a, ibufByte s (a + 1), ibufByte s (a + 2), ibufByte s (a + 3)] := by
  simp [ibufBytes, List.range_succ]

theorem ibufBytes_zero (s : State) (a : Nat) : ibufBytes s a 0 = [] := by
  simp [ibufBytes]

/-- MemRead inside the buffer gives the bytes (R56). -/
theorem memRead_inside (s : State) (a n : Nat) (h : a + n ≤ s.ibufLen) : memRead s a n = .ok (ibufBytes s a n) := by
  simp [memRead, h]

/-- MemRead outside the buffer stops the model (R56). -/
theorem memRead_outside (s : State) (a n : Nat) (h : s.ibufLen < a + n) :
    memRead s a n = .error (.memReadOutOfRange a n) := by
  simp [memRead, Nat.not_le.mpr h]

/-! ## Sub-steps -/

@[simp] theorem need_some {α : Type} (r : WorkReg) (x : α) (use : α → SubStep) : need r (some x) use = use x := rfl

@[simp] theorem need_none {α : Type} (r : WorkReg) (use : α → SubStep) : need r none use = .stop (.noValue r) := rfl

@[simp] theorem needBytes_ok (b : List Byte) (use : List Byte → SubStep) : needBytes (.ok b) use = use b := rfl

@[simp] theorem needBytes_error (f : Fault) (use : List Byte → SubStep) : needBytes (.error f) use = .stop f := rfl

@[simp] theorem andThen_go (s : State) (next : State → SubStep) : (SubStep.go s).andThen next = next s := rfl

@[simp] theorem andThen_raised (s : State) (next : State → SubStep) : (SubStep.raised s).andThen next = .raised s := rfl

@[simp] theorem andThen_stop (f : Fault) (next : State → SubStep) : (SubStep.stop f).andThen next = .stop f := rfl

@[simp] theorem outcome_go (s : State) : (SubStep.go s).outcome = .next s := rfl

@[simp] theorem outcome_raised (s : State) : (SubStep.raised s).outcome = .next s := rfl

@[simp] theorem outcome_stop (f : Fault) : (SubStep.stop f).outcome = .fault f := rfl

/-- Raising at the packet under validation (R230). -/
theorem raiseHere_eq (e : ErrorKind) (s : State) (c n : Nat) (hc : s.work.pktStart = some c)
    (hn : s.work.pktIndex = some n) : raiseHere e s = .raised (raiseError e (.inIbuf c n) s) := by
  simp [raiseHere, hc, hn]

/-- Raising at the block under encoding (R226, R230). -/
theorem raiseOutOfRange_eq (s : State) (b : BitVec 5) (hb : s.work.blkIndex = some b) :
    raiseOutOfRange s = .raised (raiseError .outOfRange (.inPin s.work.k b) s) := by
  simp [raiseOutOfRange, hb]

end Sys2Proof.Machine
end

