-- ==== Sys2Proof/Laws/Packets.lean ====
section
/-! SUPPORT. What a packet step can do, said once (40_compound_reader.md R123 to R141). -/

namespace Sys2Proof.Machine

/-- The state once the header view is latched (R123, R124). -/
def headerLatched (s : State) (h : Header) (c : Nat) : State :=
  { s with work := { s.work with pktStart := some c, hdr := some h } }

/-- The state once the payload is sliced and trimmed to end at `e` (R126 to R131). -/
def payloadSliced (s : State) (h : Header) (c e : Nat) : State :=
  { s with work := { s.work with
      pktStart := some c, hdr := some h, payStart := some (c + 4), payEnd := some e, cur := some (c + 4 + payloadSize h) } }

@[simp] theorem ibufByte_work (s : State) (w : Work) (a : Nat) : ibufByte { s with work := w } a = ibufByte s a := rfl

@[simp] theorem ibufBytes_work (s : State) (w : Work) (a n : Nat) : ibufBytes { s with work := w } a n = ibufBytes s a n :=
  rfl

@[simp] theorem ibufByte_payloadSliced (s : State) (h : Header) (c e a : Nat) :
    ibufByte (payloadSliced s h c e) a = ibufByte s a := rfl

@[simp] theorem ibufBytes_payloadSliced (s : State) (h : Header) (c e a n : Nat) :
    ibufBytes (payloadSliced s h c e) a n = ibufBytes s a n := rfl

/-- What the stripper leaves is a prefix of the payload (R131). -/
theorem trimPayload_prefix (h : Header) (payload t : List Byte) (ht : trimPayload h payload = some t) :
    t.length ≤ payload.length ∧ t = payload.take t.length := by
  unfold trimPayload at ht
  split at ht
  · split at ht
    · simp at ht
    · split at ht
      · simp only [Option.some.injEq] at ht
        subst ht
        simp [List.length_take]
      · simp at ht
  · simp only [Option.some.injEq] at ht
    subst ht
    simp

/-- The stripper on a slice of IBUF leaves a shorter slice of IBUF (R131). -/
theorem trimPayload_ibufBytes (s : State) (h : Header) (a n : Nat) (t : List Byte)
    (ht : trimPayload h (ibufBytes s a n) = some t) : t.length ≤ n ∧ t = ibufBytes s a t.length := by
  have := trimPayload_prefix h _ t ht
  rw [ibufBytes_length] at this
  exact ⟨this.1, by rw [← ibufBytes_take s a n t.length this.1]; exact this.2⟩

/-- Steps 1 to 3 (R123 to R125), all that they can do. -/
theorem frameHeader_eq (h : Header) (s : State) (c n : Nat) (hc : s.work.cur = some c) (hn : s.work.pktIndex = some n) :
    frameHeader h s =
      if s.ibufLen - c < 4 then
        .raised (raiseError .truncated (.inIbuf c n) { s with work := { s.work with pktStart := some c } })
      else if h.v = 2#2 then .go (headerLatched s h c)
      else .raised (raiseError .invalidVersion (.inIbuf c n) (headerLatched s h c)) := by
  unfold frameHeader headerPresent
  by_cases h4 : s.ibufLen - c < 4
  · simp [hc, h4, Nat.not_le.mpr h4, hn, raiseHere]
  · have h4' := Nat.not_lt.mp h4
    by_cases hv : h.v = 2#2
    · simp [hc, h4, h4', latchHeader, checkVersion, hv, headerLatched]
    · simp [hc, hn, h4, h4', latchHeader, checkVersion, hv, headerLatched, raiseHere]

/-- Step 6 (R129 to R131), all that it can do to a sliced payload. -/
theorem stripPadding_eq (h : Header) (s : State) (c n : Nat) (hn : s.work.pktIndex = some n)
    (hl : c + 4 + payloadSize h ≤ s.ibufLen) :
    stripPadding (payloadSliced s h c (c + 4 + payloadSize h)) =
      match trimPayload h (ibufBytes s (c + 4) (payloadSize h)) with
      | some t => .go (payloadSliced s h c (c + 4 + t.length))
      | none =>
        .raised (raiseError .invalidPadding (.inIbuf c n) (payloadSliced s h c (c + 4 + payloadSize h))) := by
  have hr (e : ErrorKind) (x : Nat) :
      raiseHere e (payloadSliced s h c x) = .raised (raiseError e (.inIbuf c n) (payloadSliced s h c x)) :=
    raiseHere_eq e _ c n rfl hn
  have hh (x : Nat) : (payloadSliced s h c x).work.hdr = some h := rfl
  have ha (x : Nat) : (payloadSliced s h c x).work.payStart = some (c + 4) := rfl
  have he (x : Nat) : (payloadSliced s h c x).work.payEnd = some x := rfl
  unfold stripPadding trimPayload
  rw [hh, need_some]
  by_cases hp : paddingFlag h = true
  · simp only [hp, if_true, ha, he, need_some]
    by_cases h0 : payloadSize h = 0
    · simp [h0, ibufBytes_zero, hr]
    · obtain ⟨m, hm⟩ : ∃ m, payloadSize h = m + 1 := ⟨payloadSize h - 1, by omega⟩
      have hlast : (ibufBytes s (c + 4) (payloadSize h)).getLast? = some (ibufByte s (c + 4 + m)) := by
        rw [hm, ibufBytes_add, ibufBytes_one]; simp
      have hread : memRead (payloadSliced s h c (c + 4 + payloadSize h)) (c + 4 + payloadSize h - 1) 1 =
          .ok [ibufByte s (c + 4 + m)] := by
        rw [memRead_inside _ _ _ (by change _ ≤ s.ibufLen; omega), hm]
        simp [ibufBytes_one]
      rw [hlast, hread]
      simp only [needBytes_ok, show 0 < c + 4 + payloadSize h - (c + 4) by omega, if_true, ibufBytes_length]
      have hb : beNat [ibufByte s (c + 4 + m)] = (ibufByte s (c + 4 + m)).toNat := by simp [beNat]
      rw [hb, show c + 4 + payloadSize h - (c + 4) = payloadSize h by omega]
      by_cases hok : 0 < (ibufByte s (c + 4 + m)).toNat ∧ (ibufByte s (c + 4 + m)).toNat ≤ payloadSize h
      · simp only [hok, and_self, if_true, List.length_take, ibufBytes_length]
        rw [show min (payloadSize h - (ibufByte s (c + 4 + m)).toNat) (payloadSize h) =
          payloadSize h - (ibufByte s (c + 4 + m)).toNat by omega,
          show c + 4 + payloadSize h - (ibufByte s (c + 4 + m)).toNat =
          c + 4 + (payloadSize h - (ibufByte s (c + 4 + m)).toNat) by omega]
        rfl
      · simp only [hok, if_false, hr]
  · simp [hp]

/-- The packet step, all that it can do (R123 to R141). -/
theorem packetStep_eq (h : Header) (dispatch : State → SubStep) (s : State) (c n : Nat) (hc : s.work.cur = some c)
    (hn : s.work.pktIndex = some n) :
    packetStep h dispatch s =
      if s.ibufLen - c < 4 then
        .next (raiseError .truncated (.inIbuf c n) { s with work := { s.work with pktStart := some c } })
      else if h.v ≠ 2#2 then
        .next (raiseError .invalidVersion (.inIbuf c n) (headerLatched s h c))
      else if s.ibufLen < c + 4 + payloadSize h then
        .next (raiseError .truncated (.inIbuf c n)
          { s with work := { s.work with pktStart := some c, hdr := some h, cur := some (c + 4) } })
      else
        match trimPayload h (ibufBytes s (c + 4) (payloadSize h)) with
        | none => .next (raiseError .invalidPadding (.inIbuf c n) (payloadSliced s h c (c + 4 + payloadSize h)))
        | some t => ((dispatch (payloadSliced s h c (c + 4 + t.length))).andThen endPacket).outcome := by
  unfold packetStep
  rw [frameHeader_eq h s c n hc hn]
  by_cases h4 : s.ibufLen - c < 4
  · simp [h4]
  · by_cases hv : h.v = 2#2
    · simp only [h4, hv, if_false, if_true, ne_eq, not_true_eq_false, andThen_go]
      have hpass : passHeader (headerLatched s h c) =
          .go { s with work := { s.work with pktStart := some c, hdr := some h, cur := some (c + 4) } } := by
        simp [passHeader, headerLatched, hc]
      rw [hpass]
      by_cases hb : s.ibufLen < c + 4 + payloadSize h
      · simp [slicePayload, hb, Nat.not_le.mpr hb, raiseHere, hn]
      · have hslice : slicePayload { s with work := { s.work with pktStart := some c, hdr := some h, cur := some (c + 4) } } =
            .go (payloadSliced s h c (c + 4 + payloadSize h)) := by
          simp [slicePayload, Nat.not_lt.mp hb, payloadSliced]
        simp only [andThen_go, hslice, hb, if_false]
        rw [stripPadding_eq h s c n hn (by omega)]
        split <;> simp_all
    · simp [h4, hv]

/-- The dispatcher sees the trimmed payload (R133). -/
theorem withPayload_payloadSliced (s : State) (h : Header) (c m : Nat) (use : List Byte → SubStep)
    (hl : c + 4 + m ≤ s.ibufLen) :
    withPayload (payloadSliced s h c (c + 4 + m)) use = use (ibufBytes s (c + 4) m) := by
  have ha : (payloadSliced s h c (c + 4 + m)).work.payStart = some (c + 4) := rfl
  have he : (payloadSliced s h c (c + 4 + m)).work.payEnd = some (c + 4 + m) := rfl
  unfold withPayload
  rw [ha, he, need_some, need_some, show c + 4 + m - (c + 4) = m by omega,
    memRead_inside _ _ _ (by change _ ≤ s.ibufLen; omega)]
  simp

end Sys2Proof.Machine
end

