-- ==== Sys2Proof/Laws/PerInstr.lean ====
section
/-! SUPPORT. The statements made per constructor of Instr. -/

namespace Sys2Proof.Laws

/-- How many bytes a row's encoding has: four for a header word, one that holds a CMD code, none for an internal operation
(30_encoding.md R92). -/
def EncodeSize.Statement (i : Instr) : Prop :=
  (encode i).length = match i.format with
    | .header => 4
    | .hostCmd => 1
    | .internal => 0

theorem EncodeSize.sr (p : BitVec 1) (count : BitVec 5) (length : BitVec 16) :
    EncodeSize.Statement (.sr p count length) := rfl
theorem EncodeSize.rr (p : BitVec 1) (count : BitVec 5) (length : BitVec 16) :
    EncodeSize.Statement (.rr p count length) := rfl
theorem EncodeSize.sdes (p : BitVec 1) (count : BitVec 5) (length : BitVec 16) :
    EncodeSize.Statement (.sdes p count length) := rfl
theorem EncodeSize.bye (p : BitVec 1) (count : BitVec 5) (length : BitVec 16) :
    EncodeSize.Statement (.bye p count length) := rfl
theorem EncodeSize.rtpfb (p : BitVec 1) (count : BitVec 5) (length : BitVec 16) :
    EncodeSize.Statement (.rtpfb p count length) := rfl
theorem EncodeSize.psfb (p : BitVec 1) (count : BitVec 5) (length : BitVec 16) :
    EncodeSize.Statement (.psfb p count length) := rfl
theorem EncodeSize.unknown (p : BitVec 1) (count : BitVec 5) (pt : Byte) (length : BitVec 16) :
    EncodeSize.Statement (.unknown p count pt length) := rfl
theorem EncodeSize.illegalV0 (p : BitVec 1) (count : BitVec 5) (pt : Byte) (length : BitVec 16) :
    EncodeSize.Statement (.illegalV0 p count pt length) := rfl
theorem EncodeSize.illegalV1 (p : BitVec 1) (count : BitVec 5) (pt : Byte) (length : BitVec 16) :
    EncodeSize.Statement (.illegalV1 p count pt length) := rfl
theorem EncodeSize.illegalV3 (p : BitVec 1) (count : BitVec 5) (pt : Byte) (length : BitVec 16) :
    EncodeSize.Statement (.illegalV3 p count pt length) := rfl
theorem EncodeSize.decode : EncodeSize.Statement .decode := rfl
theorem EncodeSize.encode : EncodeSize.Statement .encode := rfl
theorem EncodeSize.cmdReserved00 : EncodeSize.Statement .cmdReserved00 := rfl
theorem EncodeSize.cmdReserved11 : EncodeSize.Statement .cmdReserved11 := rfl
theorem EncodeSize.decodeRr (payload : List Byte) (count : BitVec 5) :
    EncodeSize.Statement (.decodeRr payload count) := rfl
theorem EncodeSize.encodeRr (pkt : ReceiverReport) : EncodeSize.Statement (.encodeRr pkt) := rfl
theorem EncodeSize.wrapRr (n : BitVec 5) (body : List Byte) : EncodeSize.Statement (.wrapRr n body) := rfl
theorem EncodeSize.decodeBlock (b : Vector Byte 24) : EncodeSize.Statement (.decodeBlock b) := rfl
theorem EncodeSize.encodeBlock (b : ReportBlock) : EncodeSize.Statement (.encodeBlock b) := rfl
theorem EncodeSize.sext24 (r : Vector Byte 3) : EncodeSize.Statement (.sext24 r) := rfl
theorem EncodeSize.trunc24 (v : Int) : EncodeSize.Statement (.trunc24 v) := rfl

end Sys2Proof.Laws
end

