-- ==== Sys2Proof/Laws/Step.lean ====
section
/-! SUPPORT. What a step can do, said once: every next state is the running operation's or the host's. -/

namespace Sys2Proof.Machine

/-- The dispatcher's action on a packet row (R133). The illegal versions never reach it. -/
def dispatcher : Instr → Header → State → SubStep
  | .rr _ _ _, _ => dispatchRr
  | _, h => skipPacket h.pt

/-- A header of another version ends the packet step, whatever the dispatcher would do (R125). -/
theorem frameHeader_ends (h : Header) (s : State) (dispatch : State → SubStep) (hv : h.v ≠ 2#2) :
    (frameHeader h s).outcome = packetStep h dispatch s := by
  have stays (next : State → SubStep) : (frameHeader h s).andThen next = frameHeader h s := by
    unfold frameHeader headerPresent
    cases hc : s.work.cur with
    | none => simp
    | some c =>
      simp only [need_some]
      by_cases h4 : Config.hdrBytes ≤ s.ibufLen - c
      · simp only [if_pos h4, andThen_go, latchHeader, checkVersion, need_some, Config.version, BitVec.ofNat_eq_ofNat,
          if_neg hv, raiseHere]
        cases s.work.pktIndex <;> simp
      · simp only [if_neg h4, raiseHere, need_some]
        cases s.work.pktIndex <;> simp
  unfold packetStep
  rw [stays, stays, stays, stays, stays]

/-- Every packet row runs the one packet step of its header; `packetStep_eq` says what that can do. -/
theorem exec_packet (i : Instr) (h : Header) (s : State) (hi : i.header = some h) :
    exec i s = packetStep h (dispatcher i h) s := by
  cases i <;> simp [Instr.header] at hi <;> subst hi <;> first | rfl | exact frameHeader_ends _ _ _ (by simp)

/-- A host command has a next state only when not BUSY, and that is the start of its operation (R30, R37, R46). -/
theorem exec_command_next (code : BitVec 2) (s t : State) (e : exec (decodeCmd code) s = .next t) :
    s.status ≠ .busy ∧
    ((code = 1 ∧ s.cfg.admits s.ibufLen = true ∧ t = beginDecode s) ∨
     (code = 2 ∧ (∃ rs, acceptPackets 0 (pinRecords s) = .ok rs) ∧ t = beginEncode s)) := by
  have codes : ∀ c : BitVec 2, c = 0 ∨ c = 1 ∨ c = 2 ∨ c = 3 := by decide
  rcases codes code with rfl | rfl | rfl | rfl
  · change execCmdReserved00 s = _ at e
    simp [execCmdReserved00] at e
  · change execDecode s = _ at e
    unfold execDecode at e
    split at e
    · simp at e
    · rename_i hb
      split at e
      · rename_i ha
        cases e
        exact ⟨by simpa [State.isBusy] using hb, .inl ⟨rfl, ha, rfl⟩⟩
      · simp at e
  · change execEncode s = _ at e
    unfold execEncode at e
    split at e
    · simp at e
    · rename_i hb
      split at e
      · simp at e
      · rename_i rs ha
        cases e
        exact ⟨by simpa [State.isBusy] using hb, .inr ⟨rfl, ⟨rs, ha⟩, rfl⟩⟩
  · change execCmdReserved11 s = _ at e
    simp [execCmdReserved11] at e

/-- A step of a BUSY block whose host waits or asks nothing is the sequencer's. -/
theorem step_running (s : State) (hb : s.status = .busy) (hw : s.hostWaits = true) : step s = sequencer s := by
  unfold step
  unfold State.hostWaits at hw
  cases hh : s.host with
  | nil => simp [runOrWait, State.isBusy, hb]
  | cons r rest =>
    rw [hh] at hw
    simp only [beq_iff_eq] at hw
    simp [hostTurn, hw, State.isBusy, hb]

/-- Any other step serves the host's next request, or leaves a block that is not BUSY as it is (R261). -/
theorem step_not_running (s : State) (h : ¬ (s.status = .busy ∧ s.hostWaits = true)) :
    (s.host = [] ∧ step s = .next s) ∨ ∃ r rest, s.host = r :: rest ∧ step s = serve r { s with host := rest } := by
  unfold step
  cases hh : s.host with
  | nil =>
    have hb : s.status ≠ .busy := fun hb => h ⟨hb, by simp [State.hostWaits, hh]⟩
    exact .inl ⟨rfl, by simp [runOrWait, State.isBusy, hb]⟩
  | cons r rest =>
    refine .inr ⟨r, rest, rfl, ?_⟩
    have : ¬ (r = .waitNotBusy ∧ s.isBusy = true) := by
      rintro ⟨rfl, hb⟩
      exact h ⟨by simpa [State.isBusy] using hb, by simp [State.hostWaits, hh]⟩
    simp [hostTurn, this]

/-- A request under `whenNotBusy` is served only when not BUSY (R31, R37). -/
theorem whenNotBusy_next (s t : State) (r : Host.Outcome State Fault Refusal) (e : whenNotBusy s r = .next t) :
    s.status ≠ .busy ∧ r = .next t := by
  unfold whenNotBusy at e
  split at e
  · simp at e
  · rename_i hb
    exact ⟨by simpa [State.isBusy] using hb, e⟩

/-- The memory of the reset state is in canonical form, whatever the host asks next. -/
theorem reset_stores_wf : Memory.wf State.reset.ibuf ∧ Memory.wf State.reset.obuf ∧ Store.wf State.reset.pin := by
  decide

end Sys2Proof.Machine
end

