-- ==== Sys2Proof/Tests/Slice0.lean ====
section
/-! SUPPORT. Small tests whose expected results are the spec's vectors (95_test_vectors.md), and a named witness for the
hypotheses of every statement that has some. -/

namespace Sys2Proof.Tests

open Sys2Proof.Machine Sys2Proof.Statements

/-! ## States -/

/-- An idle block whose IBUF holds these bytes. -/
def loaded (policy : Config.Policy) (bytes : List Byte) : State :=
  { State.resetWith { policy := policy, bufMax := none } 0 [] none with
    ibuf := Store.cells 0 bytes, ibufLen := bytes.length }

/-- A DECODE of these bytes that has just begun. -/
def started (policy : Config.Policy) (bytes : List Byte) : State := beginDecode (loaded policy bytes)

/-- An idle block whose PIN holds these records. -/
def filled (pkts : List Packet) : State :=
  { State.reset with pin := Store.cells 0 pkts, pinCount := pkts.length }

/-- An ENCODE of these records that has just begun. -/
def encoding (pkts : List Packet) : State := beginEncode (filled pkts)

/-- An idle block with these requests to serve. -/
def asked (host : List HostRequest) : State := { State.reset with host := host }

/-- A state in which an encode error can be raised. -/
def atBlock (k : Nat) (blk : BitVec 5) : State :=
  { State.reset with work := { Work.blank with k := k, blkIndex := some blk } }

/-- The next state, if there is one. -/
def next? : Host.Outcome State Fault Refusal → Option State
  | .next s => some s
  | .fault _ => none
  | .refused _ => none

/-- The fault, if there is one. -/
def fault? : Host.Outcome State Fault Refusal → Option Fault
  | .next _ => none
  | .fault f => some f
  | .refused _ => none

/-- The refusal, if there is one. -/
def refusal? : Host.Outcome State Fault Refusal → Option Refusal
  | .next _ => none
  | .fault _ => none
  | .refused r => some r

/-- One step of a DECODE of these bytes, and what it leaves in OUT, CUR and ERR_*. -/
def oneStep (policy : Config.Policy) (bytes : List Byte) : Option (List Packet × Option Nat × ErrRegs) :=
  (next? (step (started policy bytes))).map fun t => (t.out, t.work.cur, t.err)

/-- The error registers of a DECODE error at the first packet. -/
def errAtStart (k : ErrorKind) : ErrRegs := { kind := some k, offset := 0, pkt := 0, blk := 0 }

def zeroBlock : ReportBlock :=
  { ssrc := 0, fractionLost := 0, packetsLost := 0, highestSequence := 0, jitter := 0, lsr := 0, dlsr := 0 }

/-- The block of D41. -/
def blockD41 : ReportBlock :=
  { ssrc := 0x80000000, fractionLost := 255, packetsLost := 8388607, highestSequence := 1, jitter := 2, lsr := 3, dlsr := 4 }

/-- The 32 bytes of V7. -/
def bytesV7 : List Byte :=
  [0x81, 0xC9, 0x00, 0x07, 0x30, 0xB6, 0x84, 0x07, 0x47, 0x94, 0x37, 0xAF, 0x00, 0x00, 0x00, 0x00] ++
  [0x00, 0x00, 0x02, 0x76, 0x00, 0x00, 0x07, 0x72, 0x00, 0x00, 0x00, 0x00, 0x00, 0x00, 0x00, 0x00]

/-- The record of V7. -/
def reportV7 : ReceiverReport :=
  { senderSsrc := 817267719
    reports := [{ ssrc := 1200895919, fractionLost := 0, packetsLost := 0, highestSequence := 630, jitter := 1906,
                  lsr := 0, dlsr := 0 }] }

/-! ## Well-formedness: one ill-formed term for each check -/

theorem test_unknown_is_no_named_type : (Instr.unknown 0 0 201 1).wellFormed = false := by decide
theorem test_encodeRr_has_31_reports :
    (Instr.encodeRr { senderSsrc := 0, reports := List.replicate 32 zeroBlock }).wellFormed = false := by decide
theorem test_wrapRr_body_size : (Instr.wrapRr 1 [0, 0, 0, 0]).wellFormed = false := by decide

/-! ## Decoding: words written out bit by bit from R81, R91 and R99 -/

theorem test_decodes_SR : decodeTableWord 32 0b10_0_00000_11001000_0000000000000110 = some (.sr 0 0 6) := by decide
theorem test_decodes_RR : decodeTableWord 32 0b10_1_00001_11001001_0000000000001000 = some (.rr 1 1 8) := by decide
theorem test_decodes_SDES : decodeTableWord 32 0b10_1_00001_11001010_0000000000000011 = some (.sdes 1 1 3) := by decide
theorem test_decodes_BYE : decodeTableWord 32 0b10_1_00001_11001011_0000000000000001 = some (.bye 1 1 1) := by decide
theorem test_decodes_RTPFB : decodeTableWord 32 0b10_0_00001_11001101_0000000000000010 = some (.rtpfb 0 1 2) := by decide
theorem test_decodes_PSFB : decodeTableWord 32 0b10_0_11111_11001110_0000000000000000 = some (.psfb 0 31 0) := by decide
theorem test_decodes_UNKNOWN :
    decodeTableWord 32 0b10_1_11111_11111111_1111111111111111 = some (.unknown 1 31 255 65535) := by decide
theorem test_decodes_UNKNOWN_204 :
    decodeTableWord 32 0b10_0_00000_11001100_0000000000000000 = some (.unknown 0 0 204 0) := by decide
theorem test_decodes_ILLEGAL_V0 :
    decodeTableWord 32 0b00_0_00001_11001001_0000000000000111 = some (.illegalV0 0 1 201 7) := by decide
theorem test_decodes_ILLEGAL_V1 :
    decodeTableWord 32 0b01_1_11111_11001001_0000000000000111 = some (.illegalV1 1 31 201 7) := by decide
theorem test_decodes_ILLEGAL_V3 :
    decodeTableWord 32 0b11_0_00001_11001001_1111111111111111 = some (.illegalV3 0 1 201 65535) := by decide
theorem test_decodes_CMD :
    decodeTableWord 8 0b00 = some .cmdReserved00 ∧ decodeTableWord 8 0b01 = some .decode ∧
    decodeTableWord 8 0b10 = some .encode ∧ decodeTableWord 8 0b11 = some .cmdReserved11 := by decide
theorem test_rejects_short_header : decode [0x80, 0xC9, 0x00] = .error .headerIncomplete := rfl
theorem test_rejects_wide_command : decodeTableWord 8 4 = none := by decide

/-! ## One step of each packet type -/

/-- D26 -/
theorem test_SR_opaque :
    oneStep .keepOpaque [0x80, 0xC8, 0x00, 0x01, 1, 2, 3, 4] =
      some ([.opaqueRecord 200 [1, 2, 3, 4]], some 8, ErrRegs.zero) := by decide +kernel

/-- V7 -/
theorem test_RR_scenario : oneStep .drop bytesV7 = some ([.receiverReport reportV7], some 32, ErrRegs.zero) := by
  decide +kernel

/-- D18 -/
theorem test_RR_whole_payload_padding :
    oneStep .drop [0xA0, 0xC9, 0x00, 0x02, 0xDE, 0xAD, 0xBE, 0xEF, 0, 0, 0, 8] =
      some ([], some 12, errAtStart .invalidReceiverReportLength) := by decide +kernel

/-- D22 -/
theorem test_SDES_odd_trim :
    oneStep .keepOpaque [0xA1, 0xCA, 0x00, 0x02, 1, 2, 3, 4, 5, 6, 7, 1] =
      some ([.opaqueRecord 202 [1, 2, 3, 4, 5, 6, 7]], some 12, ErrRegs.zero) := by decide +kernel

/-- D20 -/
theorem test_BYE_padding_checked :
    oneStep .drop [0xA1, 0xCB, 0x00, 0x01, 0, 0, 0, 5] = some ([], some 8, errAtStart .invalidPadding) := by decide +kernel

/-- D21 -/
theorem test_BYE_empty_opaque :
    oneStep .keepOpaque [0xA1, 0xCB, 0x00, 0x01, 0, 0, 0, 4] =
      some ([.opaqueRecord 203 []], some 8, ErrRegs.zero) := by decide +kernel

/-- D27 -/
theorem test_RTPFB_drop :
    oneStep .drop [0x81, 0xCD, 0x00, 0x02, 0, 0, 0, 1, 0, 0, 0, 2] = some ([], some 12, ErrRegs.zero) := by decide +kernel

/-- D28 -/
theorem test_PSFB_opaque :
    oneStep .keepOpaque [0x81, 0xCE, 0x00, 0x00] = some ([.opaqueRecord 206 []], some 4, ErrRegs.zero) := by
  decide +kernel

/-- D29 -/
theorem test_UNKNOWN_opaque :
    oneStep .keepOpaque [0x80, 0xCC, 0x00, 0x00] = some ([.opaqueRecord 204 []], some 4, ErrRegs.zero) := by
  decide +kernel

/-- D4 -/
theorem test_ILLEGAL_V0 :
    oneStep .drop [0x01, 0xC9, 0x00, 0x07] = some ([], some 0, errAtStart .invalidVersion) := by decide +kernel

/-- D5 -/
theorem test_ILLEGAL_V1 :
    oneStep .drop [0x41, 0xC9, 0x00, 0x07] = some ([], some 0, errAtStart .invalidVersion) := by decide +kernel

/-- D7: the version is checked before the bounds. -/
theorem test_ILLEGAL_V3 :
    oneStep .drop [0xC1, 0xC9, 0xFF, 0xFF] = some ([], some 0, errAtStart .invalidVersion) := by decide +kernel

/-- D3 and D8 -/
theorem test_truncated :
    oneStep .drop [0x80, 0xC9, 0x00] = some ([], some 0, errAtStart .truncated) ∧
    oneStep .drop [0x81, 0xC9, 0x00, 0x07] = some ([], some 4, errAtStart .truncated) := by decide +kernel

/-! ## Commands and the host -/

/-- D0: the loop takes no step. -/
theorem test_DECODE_empty :
    (next? (step (started .drop []))).map (fun t => (t.status, t.outCount)) = some (.done, 0) := by decide +kernel

/-- P4 -/
theorem test_ENCODE_two_packets :
    (next? (step (encoding [.receiverReport { senderSsrc := 0x01020304, reports := [] },
        .receiverReport { senderSsrc := 0xFFFFFFFF, reports := [blockD41] }]))).map
      (fun t => (t.status, t.obufLen, t.obuf.map (·.2))) =
    some (.done, 40,
      [0x80, 0xC9, 0x00, 0x01, 0x01, 0x02, 0x03, 0x04, 0x81, 0xC9, 0x00, 0x07, 0xFF, 0xFF, 0xFF, 0xFF] ++
      [0x80, 0x00, 0x00, 0x00, 0xFF, 0x7F, 0xFF, 0xFF, 0x00, 0x00, 0x00, 0x01, 0x00, 0x00, 0x00, 0x02] ++
      [0x00, 0x00, 0x00, 0x03, 0x00, 0x00, 0x00, 0x04]) := by decide +kernel

/-- P5 -/
theorem test_ENCODE_out_of_range :
    (next? (step (encoding [.receiverReport { senderSsrc := 1, reports := [] },
        .receiverReport { senderSsrc := 7, reports := [zeroBlock, zeroBlock, { zeroBlock with packetsLost := -8388609 }] }]))).map
      (fun t => (t.status, t.err, t.obufLen)) =
    some (.error, { kind := some .outOfRange, offset := 0, pkt := 1, blk := 2 }, 0) := by decide +kernel

/-- R33: both counts are "0 in `ERROR`", the one that the earlier, successful operation left too. -/
theorem test_both_counts_are_zero_in_error :
    (next? (step { encoding [.receiverReport { senderSsrc := 7, reports := [{ zeroBlock with packetsLost := 8388608 }] }] with
        outCount := 3 })).map (fun t => (t.status, t.outCount, t.obufLen)) = some (.error, 0, 0) ∧
    (next? (step { started .drop [0x80] with obufLen := 40 })).map (fun t => (t.status, t.outCount, t.obufLen)) =
      some (.error, 0, 0) := by decide +kernel

/-- D49 -/
theorem test_CMD_RESERVED : refusal? (step (asked [.writeCmd 0b11])) = some .reservedCommand ∧
    refusal? (step (asked [.writeCmd 0b00])) = some .reservedCommand := by decide +kernel

/-- D48 -/
theorem test_host_reads_after_reset :
    (next? (step (asked [.readState]))).map (·.hostData) = some (some (.number 0)) ∧
    (next? (step (asked [.readErrKind]))).map (·.hostData) = some (some (.number 0)) := by decide +kernel

/-- The model's reading of 91_not_in_source.md N4 (log 33). -/
theorem test_host_reads_back_the_input_registers :
    (next? (step { State.reset with ibufLen := 5, host := [.readIbufLen] })).map (·.hostData) = some (some (.number 5)) ∧
    (next? (step { State.reset with pinCount := 3, host := [.readPinCount] })).map (·.hostData) = some (some (.number 3)) := by
  decide +kernel

/-- D51 -/
theorem test_host_reads_the_wrong_result :
    refusal? (step { State.reset with status := .done, cmd := 1, host := [.readObuf 0] }) = some .resultNotReadable := by
  decide +kernel

/-- The table's word runs as the next step after reset (log 24): RTPFB with an empty payload, and DECODE. -/
theorem test_withFetchWord :
    (next? (step (State.reset.withFetchWord 32 0x80CD0000))).map (fun t => (t.status, t.work.cur, t.work.pktIndex)) =
      some (.busy, some 4, some 1) ∧
    (next? (step (State.reset.withFetchWord 8 1))).map (·.status) = some .busy := by decide +kernel

/-! ## Internal operations -/

/-- D32 and D33: 4 and 28 bytes are needed. -/
theorem test_DECODE_RR_length : decodeRr [] 0 = none ∧ decodeRr [0, 0, 0, 1] 1 = none := by decide +kernel

/-- D9 -/
theorem test_DECODE_RR_no_blocks :
    decodeRr [0xDE, 0xAD, 0xBE, 0xEF] 0 = some { senderSsrc := 3735928559, reports := [] } := by decide +kernel

/-- D40 -/
theorem test_ENCODE_RR_no_blocks :
    encodeRr { senderSsrc := 0x01020304, reports := [] } = .ok [1, 2, 3, 4] := by rfl

/-- D42 -/
theorem test_WRAP_RR_headers :
    (wrapRr 2 []) = [0x82, 0xC9, 0x00, 0x0D] ∧ (wrapRr 31 []) = [0x9F, 0xC9, 0x00, 0xBB] := by decide

/-- D35 -/
theorem test_DECODE_BLOCK_all_ones :
    (next? (exec (.decodeBlock (Vector.replicate 24 0xFF)) State.reset)).map (·.ret) =
      some (some (.block { ssrc := 4294967295, fractionLost := 255, packetsLost := -1, highestSequence := 4294967295,
                           jitter := 4294967295, lsr := 4294967295, dlsr := 4294967295 })) := by decide +kernel

/-- D41 -/
theorem test_ENCODE_BLOCK :
    encodeBlock blockD41 = some [0x80, 0, 0, 0, 0xFF, 0x7F, 0xFF, 0xFF, 0, 0, 0, 1, 0, 0, 0, 2, 0, 0, 0, 3, 0, 0, 0, 4] := by
  decide +kernel

/-- V5, D38f -/
theorem test_SEXT24 : sext24 [0x80, 0x00, 0x00] = -8388608 ∧ sext24 [0x80, 0xFF, 0xFF] = -8323073 := by decide +kernel

/-- D31, D39e, D39i, D39j -/
theorem test_TRUNC24 :
    trunc24 (-8388608) = some [0x80, 0, 0] ∧ trunc24 (-2) = some [0xFF, 0xFF, 0xFE] ∧ trunc24 (-8388609) = none ∧
    trunc24 16777215 = none := by decide +kernel

/-! ## States that meet the invariant -/

theorem started_inv (policy : Config.Policy) (bytes : List Byte) : (started policy bytes).Inv := by
  refine ⟨Store.wf_cells 0 bytes, by simp [started, loaded, State.resetWith], by simp [started, loaded, State.resetWith],
    rfl, fun _ => .inl rfl, fun _ _ => ⟨0, 0, rfl, rfl, Nat.zero_le _, rfl, Nat.le_refl _, Nat.le_refl _, fun _ => rfl⟩, ?_,
    ?_, ?_, fun _ => rfl, ?_, ?_, ?_, ?_, ?_⟩ <;> simp [started, loaded, State.resetWith, Work.blank]

theorem encoding_inv (rs : List ReceiverReport)
    (h : ∃ rs', acceptPackets 0 (pinRecords (encoding (rs.map .receiverReport))) = .ok rs') :
    (encoding (rs.map .receiverReport)).Inv := by
  refine ⟨by simp [encoding, filled, State.reset, State.resetWith], by simp [encoding, filled, State.reset, State.resetWith],
    Store.wf_cells 0 _, rfl, fun _ => .inr rfl, ?_, ?_, ?_, fun _ _ => h, fun _ => rfl, ?_, ?_, ?_, ?_, ?_⟩ <;>
    simp [encoding, filled, State.reset, State.resetWith]

/-- DONE after a DECODE that gave one record. -/
def decoded (host : List HostRequest) : State :=
  { State.reset with
    status := .done, cmd := 1, out := [.receiverReport reportV7], outCount := 1, host := host }

theorem decoded_inv (host : List HostRequest) : (decoded host).Inv := by
  constructor <;> simp [decoded, State.reset, State.resetWith, Packet.legalUnder]
  · decide
  · decide

/-- DONE after an ENCODE that gave one byte (no ENCODE gives so few; the state serves a read). -/
def encoded (host : List HostRequest) : State :=
  { State.reset with status := .done, cmd := 2, obuf := [(0, 0x80)], obufLen := 1, host := host }

theorem encoded_inv (host : List HostRequest) : (encoded host).Inv := by
  constructor <;> simp [encoded, State.reset, State.resetWith, Store.read]
  decide

/-! ## Witnesses: the hypotheses of each statement, met together -/

theorem witness_DecodeOfEncodeIsTheInstruction :
    ((Instr.unknown 1 31 255 65535).wellFormed = true ∧ (Instr.unknown 1 31 255 65535).format = .header) ∧
    (Instr.encode.wellFormed = true ∧ Instr.encode.format = .hostCmd) := by decide

theorem witness_EveryHeaderWordIsExactlyOneRow :
    decode [0x80, 0xCC, 0x00, 0x00] = .ok (.unknown 0 0 204 0) ∧ (Instr.unknown 0 0 204 0).wellFormed = true ∧
    (Instr.unknown 0 0 204 0).format = .header ∧ encode (.unknown 0 0 204 0) = [0x80, 0xCC, 0x00, 0x00] :=
  ⟨rfl, by decide, rfl, by decide⟩

/-- Exactly four bytes remain. -/
theorem witness_StepRunsTheDecodedPacket :
    Running (started .drop [0x81, 0xCE, 0x00, 0x00]) ∧ (started .drop [0x81, 0xCE, 0x00, 0x00]).cmd = 1 ∧
    AtPacket (started .drop [0x81, 0xCE, 0x00, 0x00]) 0 0 := ⟨⟨rfl, rfl⟩, rfl, rfl, rfl, by decide⟩

theorem witness_StepRunsTheWrittenCommand : (asked [.writeCmd 0b01]).host = .writeCmd 0b01 :: [] := rfl

theorem witness_HeaderFetchExtractsTheFields :
    Running (started .drop [0xBF, 0xFF, 0xFF, 0xFF]) ∧ (started .drop [0xBF, 0xFF, 0xFF, 0xFF]).cmd = 1 ∧
    AtPacket (started .drop [0xBF, 0xFF, 0xFF, 0xFF]) 0 0 := ⟨⟨rfl, rfl⟩, rfl, rfl, rfl, by decide⟩

/-- One byte and three bytes remain; one payload byte is missing. -/
theorem witness_TruncatedHasTwoCauses :
    (∀ bytes ∈ [[0x80], [0x80, 0xC9, 0x00]],
      Running (started .drop bytes) ∧ (started .drop bytes).cmd = 1 ∧ (started .drop bytes).work.cur = some 0 ∧
      (started .drop bytes).work.pktIndex = some 0 ∧ 1 ≤ (started .drop bytes).ibufLen - 0 ∧
      (started .drop bytes).ibufLen - 0 ≤ 3) ∧
    (4 ≤ (started .drop [0x80, 0xC9, 0x00, 0x01, 0, 0, 0]).ibufLen - 0 ∧
      (Header.ofBytes 0x80 0xC9 0x00 0x01).v = 2 ∧
      (started .drop [0x80, 0xC9, 0x00, 0x01, 0, 0, 0]).ibufLen < 0 + 4 + 4 * (Header.ofBytes 0x80 0xC9 0x00 0x01).length.toNat ∧
      Header.ofBytes 0x80 0xC9 0x00 0x01 =
        Header.ofBytes (ibufByte (started .drop [0x80, 0xC9, 0x00, 0x01, 0, 0, 0]) 0)
          (ibufByte (started .drop [0x80, 0xC9, 0x00, 0x01, 0, 0, 0]) 1)
          (ibufByte (started .drop [0x80, 0xC9, 0x00, 0x01, 0, 0, 0]) 2)
          (ibufByte (started .drop [0x80, 0xC9, 0x00, 0x01, 0, 0, 0]) 3)) := by
  refine ⟨?_, by decide, by decide, by decide, rfl⟩
  intro bytes h
  simp only [List.mem_cons, List.not_mem_nil, or_false] at h
  rcases h with rfl | rfl <;> exact ⟨⟨rfl, rfl⟩, rfl, rfl, rfl, by decide, by decide⟩

theorem witness_DecodeEndsAtTheBufferEnd :
    Running (started .drop []) ∧ (started .drop []).cmd = 1 ∧ (started .drop []).work.cur = some 0 ∧
    (started .drop []).ibufLen ≤ 0 := ⟨⟨rfl, rfl⟩, rfl, rfl, by decide⟩

/-- The header of an SR with one payload word. -/
def srHeader : Header := { v := 2, p := 0, count := 0, pt := 200, length := 1 }

/-- One payload byte is missing, and the payload fits exactly. -/
theorem witness_BoundsCheckAndSlice :
    (Instr.sr 0 0 1).header = some srHeader ∧ srHeader.v = 2 ∧
    AtPacket (started .drop [0x80, 0xC8, 0x00, 0x01, 1, 2, 3]) 0 0 ∧
    (started .drop [0x80, 0xC8, 0x00, 0x01, 1, 2, 3]).ibufLen < 0 + 4 + 4 * srHeader.length.toNat ∧
    AtPacket (started .drop [0x80, 0xC8, 0x00, 0x01, 1, 2, 3, 4]) 0 0 ∧
    0 + 4 + 4 * srHeader.length.toNat ≤ (started .drop [0x80, 0xC8, 0x00, 0x01, 1, 2, 3, 4]).ibufLen :=
  ⟨rfl, rfl, ⟨rfl, rfl, by decide⟩, by decide, ⟨rfl, rfl, by decide⟩, by decide⟩

/-- The header of a BYE with padding. -/
def byeHeader (length : BitVec 16) : Header := { v := 2, p := 1, count := 0, pt := 203, length := length }

/-- An empty payload, and last bytes 0, 1, 4 and 5 of a payload of four. -/
theorem witness_PaddingIsCheckedAndTrimmed :
    ((Instr.bye 1 0 0).header = some (byeHeader 0) ∧ AtPacket (started .drop [0xA0, 0xCB, 0, 0]) 0 0 ∧
      PayloadInside (started .drop [0xA0, 0xCB, 0, 0]) (byeHeader 0) 0 ∧ (byeHeader 0).p = 1) ∧
    ∀ p ∈ [0, 1, 4, 5],
      (Instr.bye 1 0 1).header = some (byeHeader 1) ∧ AtPacket (started .drop [0xA0, 0xCB, 0, 1, 0, 0, 0, p]) 0 0 ∧
      PayloadInside (started .drop [0xA0, 0xCB, 0, 1, 0, 0, 0, p]) (byeHeader 1) 0 ∧ (byeHeader 1).p = 1 ∧
      ibufByte (started .drop [0xA0, 0xCB, 0, 1, 0, 0, 0, p]) (0 + 4 + 4 - 1) = p := by
  refine ⟨⟨rfl, ⟨rfl, rfl, by decide⟩, ⟨rfl, by decide⟩, rfl⟩, ?_⟩
  intro p _
  exact ⟨rfl, ⟨rfl, rfl, by simp [started, loaded]⟩, ⟨rfl, by simp [started, loaded, byeHeader]⟩, rfl, rfl⟩

/-- Without padding, and with a whole payload of padding. -/
theorem witness_SkippedPacketsComplete :
    (Skipped (.sr 0 0 1) ∧ (Instr.sr 0 0 1).wellFormed = true ∧ (Instr.sr 0 0 1).header = some srHeader ∧
      AtPacket (started .keepOpaque [0x80, 0xC8, 0x00, 0x01, 1, 2, 3, 4]) 0 0 ∧
      PayloadInside (started .keepOpaque [0x80, 0xC8, 0x00, 0x01, 1, 2, 3, 4]) srHeader 0 ∧
      TrimmedTo (started .keepOpaque [0x80, 0xC8, 0x00, 0x01, 1, 2, 3, 4]) srHeader 0 4) ∧
    (Skipped (.bye 1 0 1) ∧ (Instr.bye 1 0 1).wellFormed = true ∧ (Instr.bye 1 0 1).header = some (byeHeader 1) ∧
      AtPacket (started .drop [0xA0, 0xCB, 0, 1, 0, 0, 0, 4]) 0 0 ∧
      PayloadInside (started .drop [0xA0, 0xCB, 0, 1, 0, 0, 0, 4]) (byeHeader 1) 0 ∧
      TrimmedTo (started .drop [0xA0, 0xCB, 0, 1, 0, 0, 0, 4]) (byeHeader 1) 0 0) :=
  ⟨⟨trivial, rfl, rfl, ⟨rfl, rfl, by decide⟩, ⟨rfl, by decide⟩, .inl ⟨rfl, rfl⟩⟩,
   ⟨trivial, rfl, rfl, ⟨rfl, rfl, by decide⟩, ⟨rfl, by decide⟩, .inr ⟨rfl, 4, by decide, by decide, rfl, rfl⟩⟩⟩

/-- The header of V7. -/
def rrHeader : Header := { v := 2, p := 0, count := 1, pt := 201, length := 7 }

theorem witness_ReceiverReportPacketCompletes :
    AtPacket (started .drop bytesV7) 0 0 ∧ PayloadInside (started .drop bytesV7) rrHeader 0 ∧
    TrimmedTo (started .drop bytesV7) rrHeader 0 28 ∧ 28 = 4 + 24 * (1 : BitVec 5).toNat :=
  ⟨⟨rfl, rfl, by decide⟩, ⟨rfl, by decide⟩, .inl ⟨rfl, rfl⟩, by decide⟩

/-- The same size with count 0 (D34); and an SR has a next state. -/
theorem witness_WrongReceiverReportLengthRaises :
    (AtPacket (started .drop bytesV7) 0 0 ∧ PayloadInside (started .drop bytesV7) { rrHeader with count := 0 } 0 ∧
      TrimmedTo (started .drop bytesV7) { rrHeader with count := 0 } 0 28 ∧ 28 ≠ 4 + 24 * (0 : BitVec 5).toNat) ∧
    ((Instr.sr 0 0 1).header = some srHeader ∧ (∀ p n l, Instr.sr 0 0 1 ≠ .rr p n l) ∧
      (next? (exec (.sr 0 0 1) (started .drop [0x80, 0xC8, 0x00, 0x01, 1, 2, 3, 4]))).isSome = true) :=
  ⟨⟨⟨rfl, rfl, by decide⟩, ⟨rfl, by decide⟩, .inl ⟨rfl, rfl⟩, by decide⟩, rfl, by simp, by decide +kernel⟩

theorem witness_IllegalVersionsRaiseInvalidVersion : AtPacket (started .drop [0x41, 0xC9, 0x00, 0x07]) 0 0 :=
  ⟨rfl, rfl, by decide⟩

theorem witness_PacketFrame :
    (Instr.sr 0 0 1).header = some srHeader ∧
    (next? (exec (.sr 0 0 1) (started .drop [0x80, 0xC8, 0x00, 0x01, 1, 2, 3, 4]))).isSome = true ∧
    (Instr.illegalV0 0 1 201 7).header = some { v := 0, p := 0, count := 1, pt := 201, length := 7 } ∧
    (next? (exec (.illegalV0 0 1 201 7) (started .drop [0x01, 0xC9, 0x00, 0x07]))).isSome = true := by decide +kernel

/-- IBUF_LEN at BUF_MAX. -/
theorem witness_DecodeCommandStarts :
    ({ loaded .drop [0x80, 0xC9] with cfg := { policy := .drop, bufMax := some 2 } } : State).status ≠ .busy ∧
    (Config.Cfg.mk .drop (some 2)).admits (loaded .drop [0x80, 0xC9]).ibufLen = true := by decide

/-- A Receiver Report with 31 reports, one of them out of range. -/
def fullReport : ReceiverReport :=
  { senderSsrc := 7, reports := List.replicate 30 zeroBlock ++ [{ zeroBlock with packetsLost := 8388608 }] }

theorem witness_EncodeCommandStarts :
    (filled [.receiverReport fullReport]).status ≠ .busy ∧
    ∀ k, k < (filled [.receiverReport fullReport]).pinCount →
      ∃ r, pinRecord (filled [.receiverReport fullReport]) k = .receiverReport r ∧ r.reports.length ≤ 31 := by
  refine ⟨by decide, ?_⟩
  intro k hk
  obtain rfl : k = 0 := by simp [filled] at hk; exact hk
  exact ⟨_, rfl, by decide⟩

/-- A Receiver Report with 32 reports. -/
def overfullReport : ReceiverReport := { senderSsrc := 7, reports := List.replicate 32 zeroBlock }

/-- One for each clause: the lengths at BUF_MAX + 1, and an Opaque record and a report over the 31 that ENCODE admits. -/
theorem witness_ProtocolBreachesAreRefused :
    (asked [.writeCmd 0b11]).host = [.writeCmd 0b11] ∧
    ({ started .drop [] with host := [.writeCmd 0b10] } : State).status = .busy ∧
    ({ started .drop [] with host := [.writePinCount 1] } : State).status = .busy ∧
    (({ started .drop [] with host := [.readOutCount] } : State).status = .busy ∧
      .readOutCount ∈ [.readErrKind, .readErrOffset, .readErrPkt, .readErrBlk, .readOutCount, .readObufLen, .readIbufLen,
        HostRequest.readPinCount]) ∧
    ¬ ((encoded [.readOut 0]).status = .done ∧ (encoded [.readOut 0]).cmd = 0b01) ∧
    ¬ ((decoded [.readObuf 0]).status = .done ∧ (decoded [.readObuf 0]).cmd = 0b10) ∧
    ((State.resetWith { policy := .drop, bufMax := some 8 } 0 [.writeIbufLen 9] none).status ≠ .busy ∧
      (State.resetWith { policy := .drop, bufMax := some 8 } 0 [.writeIbufLen 9] none).cfg.bufMax = some 8 ∧ 8 < 9) ∧
    8 < ({ State.resetWith { policy := .drop, bufMax := some 8 } 0 [.writeCmd 0b01] none with ibufLen := 9 } : State).ibufLen ∧
    ((filled [.opaqueRecord 200 []]).status ≠ .busy ∧ 0 < (filled [.opaqueRecord 200 []]).pinCount ∧
      ∀ q, pinRecord (filled [.opaqueRecord 200 []]) 0 = .receiverReport q → 31 < q.reports.length) ∧
    ((filled [.receiverReport overfullReport]).status ≠ .busy ∧ 0 < (filled [.receiverReport overfullReport]).pinCount ∧
      ∀ q, pinRecord (filled [.receiverReport overfullReport]) 0 = .receiverReport q → 31 < q.reports.length) :=
  ⟨rfl, rfl, rfl, by decide, by decide, by decide, by decide, by decide, ⟨by decide, by decide, by intro q h; cases h⟩,
   by decide, by decide, by intro q h; cases h; decide⟩

theorem witness_EncodeWritesTheConcatenatedPackets :
    Running (encoding [.receiverReport reportV7]) ∧ (encoding [.receiverReport reportV7]).cmd = 2 ∧
    pinRecords (encoding [.receiverReport reportV7]) = [reportV7].map .receiverReport ∧
    ∀ r ∈ [reportV7], r.legal = true := ⟨⟨rfl, rfl⟩, rfl, rfl, by decide⟩

/-- A block with this counter. -/
def lost (v : Int) : ReportBlock := { zeroBlock with packetsLost := v }

/-- The least legal counter, then the value before it. -/
def edgeReport : ReceiverReport := { senderSsrc := 7, reports := [lost (-8388608), lost (-8388609)] }

theorem witness_EncodeRaisesAtTheFirstBlockOutOfRange :
    Running (encoding [.receiverReport reportV7, .receiverReport edgeReport]) ∧
    (encoding [.receiverReport reportV7, .receiverReport edgeReport]).cmd = 2 ∧
    pinRecords (encoding [.receiverReport reportV7, .receiverReport edgeReport]) =
      ([reportV7] ++ edgeReport :: []).map .receiverReport ∧
    (∀ q ∈ [reportV7] ++ edgeReport :: [], q.reports.length ≤ 31) ∧ (∀ q ∈ [reportV7], q.legal = true) ∧
    edgeReport.reports = [lost (-8388608)] ++ lost (-8388609) :: [] ∧
    (∀ g ∈ [lost (-8388608)], g.inRange = true) ∧ (lost (-8388609)).inRange = false ∧ (lost 8388608).inRange = false :=
  ⟨⟨rfl, rfl⟩, rfl, rfl, by decide, by decide, rfl, by decide, by decide, by decide⟩

/-- The four boundary values of the counter, in a state that names the packet and the block. -/
theorem witness_Trunc24NarrowsOrRaises :
    ((-8388608 : Int) ≤ -8388608 ∧ (-8388608 : Int) ≤ 8388607) ∧ ((-8388608 : Int) ≤ 8388607 ∧ (8388607 : Int) ≤ 8388607) ∧
    ((-8388609 : Int) < -8388608 ∨ (8388607 : Int) < -8388609) ∧ ((8388608 : Int) < -8388608 ∨ (8388607 : Int) < 8388608) ∧
    (atBlock 1 2).work.blkIndex = some 2 := by decide

theorem witness_EncodeBlockWritesTheFieldsOrRaises :
    (-8388608 ≤ blockD41.packetsLost ∧ blockD41.packetsLost ≤ 8388607) ∧
    8388607 < ({ blockD41 with packetsLost := 8388608 } : ReportBlock).packetsLost ∧
    ({ blockD41 with packetsLost := -8388609 } : ReportBlock).packetsLost < -8388608 ∧
    (atBlock 1 2).work.blkIndex = some 2 := by decide

/-- No block and 31 blocks; one byte too few. -/
theorem witness_DecodeRrReadsTheBody :
    [(1 : Byte), 2, 3, 4].length = 4 + 24 * (0 : BitVec 5).toNat ∧
    (List.replicate 748 (0 : Byte)).length = 4 + 24 * (31 : BitVec 5).toNat ∧
    ((30 : Nat) < (31 : BitVec 5).toNat ∧
      ((List.replicate 748 (0 : Byte)).drop (4 + 24 * 30)).take 24 = (Vector.replicate 24 (0 : Byte)).toList) ∧
    (List.replicate 747 (0 : Byte)).length ≠ 4 + 24 * (31 : BitVec 5).toNat ∧
    ({ started .drop [] with work := { Work.blank with pktStart := some 8, pktIndex := some 1 } } : State).work.pktStart =
      some 8 := by decide +kernel

/-- No report, 31 reports, a bad block at index 30 of 31, and 32 reports. -/
theorem witness_EncodeRrWritesTheBodyOrRaises :
    (ReceiverReport.mk 7 []).legal = true ∧ (ReceiverReport.mk 7 (List.replicate 31 zeroBlock)).legal = true ∧
    ((List.replicate 30 zeroBlock ++ [{ zeroBlock with packetsLost := -8388609 }]).length ≤ 31 ∧
      (∀ g ∈ List.replicate 30 zeroBlock, g.inRange = true) ∧
      ({ zeroBlock with packetsLost := -8388609 } : ReportBlock).inRange = false) ∧
    31 < (List.replicate 32 zeroBlock).length := by decide +kernel

/-- Both ends of each half of the triples. -/
theorem witness_BlockCodecIsInverse :
    [(0x80 : Byte), 0, 0].length = 3 ∧ ((-8388608 : Int) ≤ 8388607 ∧ (8388607 : Int) ≤ 8388607) ∧
    (List.replicate 24 (0xFF : Byte)).length = 24 ∧ (-8388608 ≤ blockD41.packetsLost ∧ blockD41.packetsLost ≤ 8388607) ∧
    (beNat [0x7F, 0xFF, 0xFE] < beNat [0x7F, 0xFF, 0xFF] ∧ beNat [0x7F, 0xFF, 0xFF] ≤ 0x7FFFFF) ∧
    (beNat [0x80, 0, 0] < beNat [0x80, 0, 1] ∧ 0x800000 ≤ beNat [0x80, 0, 0]) := by
  decide

theorem witness_DecodedCounterIsInRange :
    [(0x80 : Byte), 0, 0].length = 3 ∧ (decoded []).Inv ∧ .receiverReport reportV7 ∈ (decoded []).out ∧
    ∃ k, k ∈ reportV7.reports := ⟨rfl, decoded_inv _, by decide, _, .head _⟩

theorem witness_EncodedPacketSize : reportV7.legal = true ∧ encodeFunction [reportV7] = .ok bytesV7 := by
  exact ⟨by decide, by rfl⟩

theorem witness_ReceiverReportRoundTrip : (ReceiverReport.mk 7 (List.replicate 31 zeroBlock)).legal = true := by decide

theorem witness_DecodeOfEncodeGivesThePackets : ∀ r ∈ [reportV7, ⟨0x01020304, []⟩], r.legal = true := by decide

theorem witness_EncodeOfDecodeGivesTheBytes :
    PlainReports bytesV7 ∧ decodeFunction .drop bytesV7 = .ok [.receiverReport reportV7] :=
  ⟨PlainReports.cons rrHeader (bytesV7.drop 4) [] rfl rfl rfl rfl .nil, by rfl⟩

theorem witness_DecodeSuccessBounds :
    decodeFunction .drop bytesV7 = .ok [.receiverReport reportV7] ∧
    decodeFunction .keepOpaque [0x81, 0xCE, 0x00, 0x00] = .ok [.opaqueRecord 206 []] := ⟨by rfl, by rfl⟩

theorem witness_PoliciesAgree :
    decodeFunction .keepOpaque [0x81, 0xCE, 0x00, 0x00] = .ok [.opaqueRecord 206 []] ∧
    decodeFunction .keepOpaque [0x80, 0xC9, 0x00] = .error { kind := .truncated, offset := 0, pkt := 0 } :=
  ⟨by rfl, by rfl⟩

theorem witness_DecodeOfConcatenation :
    decodeFunction .drop [0x81, 0xCE, 0x00, 0x00] = .ok [] ∧
    decodeFunction .keepOpaque [0x81, 0xCE, 0x00, 0x00] = .ok [.opaqueRecord 206 []] ∧
    decodeFunction .drop bytesV7 = .ok [.receiverReport reportV7] ∧
    decodeFunction .drop [0x80, 0xC9, 0x00] = .error { kind := .truncated, offset := 0, pkt := 0 } :=
  ⟨by rfl, by rfl, by rfl, by rfl⟩

theorem witness_DecodeStepsComputeTheFunction :
    (loaded .keepOpaque bytesV7).status ≠ .busy ∧
    (loaded .keepOpaque bytesV7).cfg.admits (loaded .keepOpaque bytesV7).ibufLen = true ∧
    (loaded .keepOpaque bytesV7).host = [] := by decide

/-- The same input after an error and after reset (D50). -/
theorem witness_DecodeForgetsEarlierOperations :
    exec .decode (loaded .drop bytesV7) = .next (started .drop bytesV7) ∧
    exec .decode { loaded .drop bytesV7 with status := .error, cmd := 1, err := errAtStart .truncated } =
      .next (started .drop bytesV7) ∧
    (∀ a, a < (loaded .drop bytesV7).ibufLen → ibufByte (loaded .drop bytesV7) a =
      ibufByte { loaded .drop bytesV7 with status := .error, cmd := 1, err := errAtStart .truncated } a) :=
  ⟨rfl, rfl, fun _ _ => rfl⟩

theorem witness_DecodeTerminates :
    (started .drop bytesV7).Inv ∧ (started .drop bytesV7).status = .busy ∧ (started .drop bytesV7).cmd = 1 ∧
    (started .drop bytesV7).host = [] := ⟨started_inv _ _, rfl, rfl, rfl⟩

theorem witness_EveryStepKeepsTheInvariant :
    (started .drop bytesV7).Inv ∧ (next? (step (started .drop bytesV7))).isSome = true :=
  ⟨started_inv _ _, by decide +kernel⟩

theorem witness_RunningOperationNeverStops :
    ((started .drop bytesV7).Inv ∧ Running (started .drop bytesV7)) ∧
    ((encoding ([reportV7].map .receiverReport)).Inv ∧ Running (encoding ([reportV7].map .receiverReport))) :=
  ⟨⟨started_inv _ _, rfl, rfl⟩, encoding_inv _ ⟨_, rfl⟩, rfl, rfl⟩

theorem witness_OnlyTheHostCanFault :
    (decoded [.readOut 1]).Inv ∧ fault? (step (decoded [.readOut 1])) = some (.noSuchAddress .out 1) :=
  ⟨decoded_inv _, by decide +kernel⟩

theorem witness_CursorOnlyMovesForward :
    (started .drop bytesV7).Inv ∧ Running (started .drop bytesV7) ∧ (started .drop bytesV7).cmd = 1 ∧
    (started .drop bytesV7).work.cur = some 0 ∧
    (next? (step (started .drop bytesV7))).map (fun t => (t.status, t.work.cur)) = some (.busy, some 32) :=
  ⟨started_inv _ _, ⟨rfl, rfl⟩, rfl, rfl, by decide +kernel⟩

/-- One step of each kind. -/
theorem witness_StateTransitions :
    (next? (step (asked [.readState]))).map (·.status) = some .idle ∧
    (next? (step (asked [.writeCmd 0b01]))).map (·.status) = some .busy ∧
    (next? (step (started .drop []))).map (·.status) = some .done ∧
    (next? (step { started .drop [] with host := [.hardwareReset] })).map (·.status) = some .idle := by decide +kernel

theorem witness_ConfigurationIsStatic : (next? (step (asked [.hardwareReset]))).isSome = true := by decide +kernel

theorem witness_OperationsStayInTheirStores :
    (Running (started .drop bytesV7) ∧ (started .drop bytesV7).cmd = 1 ∧
      (next? (step (started .drop bytesV7))).isSome = true) ∧
    (Running (encoding [.receiverReport reportV7]) ∧ (encoding [.receiverReport reportV7]).cmd = 2 ∧
      (next? (step (encoding [.receiverReport reportV7]))).isSome = true) ∧
    (Running (started .drop [0x80]) ∧ (next? (step (started .drop [0x80]))).map (·.status) = some .error) :=
  ⟨⟨⟨rfl, rfl⟩, rfl, by decide +kernel⟩, ⟨⟨rfl, rfl⟩, rfl, by decide +kernel⟩, ⟨rfl, rfl⟩, by decide +kernel⟩

theorem witness_ErrorsLeaveNoPartialResult :
    ((started .drop [0x80]).Inv ∧ Running (started .drop [0x80]) ∧
      (next? (step (started .drop [0x80]))).map (·.status) = some .error) ∧
    ((encoding ([edgeReport].map .receiverReport)).Inv ∧ Running (encoding ([edgeReport].map .receiverReport)) ∧
      (next? (step (encoding ([edgeReport].map .receiverReport)))).map (·.status) = some .error) :=
  ⟨⟨started_inv _ _, ⟨rfl, rfl⟩, by decide +kernel⟩, encoding_inv _ ⟨_, rfl⟩, ⟨rfl, rfl⟩, by decide +kernel⟩

theorem witness_HardwareResetFromAnyState :
    ({ started .drop bytesV7 with host := [.hardwareReset] } : State).host = .hardwareReset :: [] := rfl

/-- The last byte of a buffer of eight, and its whole length. -/
theorem witness_HostWritesIbufAndItsLength :
    ((State.resetWith { policy := .drop, bufMax := some 8 } 0 [.writeIbuf 7 [1]] none).host = .writeIbuf 7 [1] :: [] ∧
      (State.resetWith { policy := .drop, bufMax := some 8 } 0 [.writeIbuf 7 [1]] none).status ≠ .busy ∧
      (State.resetWith { policy := .drop, bufMax := some 8 } 0 [.writeIbuf 7 [1]] none).cfg.admits (7 + [(1 : Byte)].length) =
        true) ∧
    ((State.resetWith { policy := .drop, bufMax := some 8 } 0 [.writeIbufLen 8] none).host = .writeIbufLen 8 :: [] ∧
      (State.resetWith { policy := .drop, bufMax := some 8 } 0 [.writeIbufLen 8] none).status ≠ .busy ∧
      (State.resetWith { policy := .drop, bufMax := some 8 } 0 [.writeIbufLen 8] none).cfg.admits 8 = true) := by decide

theorem witness_HostWritesPinAndItsCount :
    ((asked [.writePin 3 (.opaqueRecord 200 [])]).host = .writePin 3 (.opaqueRecord 200 []) :: [] ∧
      (asked [.writePin 3 (.opaqueRecord 200 [])]).status ≠ .busy) ∧
    ((asked [.writePinCount 0]).host = .writePinCount 0 :: [] ∧ (asked [.writePinCount 0]).status ≠ .busy) := by decide

theorem witness_HostReadsResults :
    ((decoded [.readOut 0]).Inv ∧ (decoded [.readOut 0]).status = .done ∧ (decoded [.readOut 0]).cmd = 1 ∧
      0 < (decoded [.readOut 0]).outCount) ∧
    ((encoded [.readObuf 0]).Inv ∧ (encoded [.readObuf 0]).status = .done ∧ (encoded [.readObuf 0]).cmd = 2 ∧
      0 < (encoded [.readObuf 0]).obufLen) :=
  ⟨⟨decoded_inv _, rfl, rfl, by decide⟩, encoded_inv _, rfl, rfl, by decide⟩

theorem witness_HostReadsTheRegisters :
    ({ started .drop [] with host := [.readState] } : State).host = .readState :: [] ∧
    ∀ r ∈ [.readErrKind, .readErrOffset, .readErrPkt, .readErrBlk, .readOutCount, .readObufLen, .readIbufLen,
        HostRequest.readPinCount],
      (asked [r]).host = r :: [] ∧ (asked [r]).status ≠ .busy := by decide

/-- A DECODE whose working registers hold these values. -/
def blind (w : Work) : State := { started .drop [0x80, 0xC8, 0x00, 0x00] with work := w }

/-- One for each clause, the counter at both ends. -/
theorem witness_AReadOfNoValueFaults :
    (Instr.sr 0 0 1).header = some srHeader ∧ (blind Work.blank).work.cur = none ∧
    ((blind { Work.blank with cur := some 0 }).work.cur.isSome = true ∧
      (blind { Work.blank with cur := some 0 }).work.pktIndex = none) ∧
    (Running (blind Work.blank) ∧ (blind Work.blank).cmd = 1) ∧
    ([] : List Byte).length ≠ 4 + 24 * (0 : BitVec 5).toNat ∧ (blind Work.blank).work.pktStart = none ∧
    ((blind { Work.blank with pktStart := some 0 }).work.pktStart.isSome = true ∧
      (blind { Work.blank with pktStart := some 0 }).work.pktIndex = none) ∧
    (blind Work.blank).work.blkIndex = none ∧ (-8388609 : Int) < -8388608 ∧ (8388607 : Int) < 8388608 ∧
    (lost (-8388609)).packetsLost < -8388608 ∧ 8388607 < (lost 8388608).packetsLost :=
  ⟨rfl, rfl, ⟨rfl, rfl⟩, ⟨⟨rfl, rfl⟩, rfl⟩, by decide, rfl, ⟨rfl, rfl⟩, rfl, by decide, by decide, by decide, by decide⟩

end Sys2Proof.Tests
end

section
/-! PROOFS of the statements of 10_state.md. First each operation by itself: the codec, the pieces of a packet step, the host
port, the commands, and what each state update does to the invariant. From these, what a step can do, said once: a packet step
(`fetchPacket_onePacket`), a step of the running operation (`decodeRun_next`, `encodeRun_next`) and the host's next request
(`serve_next`), put together in `step_next`. Then the statements, each from these. -/

-- No `variable` stands below, so this changes no statement. It makes Lean elaborate the proofs one after another: each test
-- above already holds a thread, and with more proofs beside them the check's memory limit admits no further thread.
set_option deprecated.oldSectionVars true

namespace Sys2Proof.Machine

open Sys2Proof.Statements

/-! ## SEXT24 and DECODE_RR give values in range -/

/-- SEXT24 of three bytes is the integer that they stand for in two's complement (R192). -/
theorem sext24_eq_signed24 (a b c : Byte) : sext24 [a, b, c] = signed24 a b c := by
  have hsign : beNat (slice [a, b, c] 0 1) >>> 7 = 1 ↔ 128 ≤ a.toNat := by
    simp only [slice, beNat, List.drop_zero, List.take_succ_cons, List.take_zero, List.foldl_cons, List.foldl_nil,
      Nat.shiftRight_eq_div_pow]
    omega
  have hvalue (x : Byte) : beNat [x, a, b, c] = x.toNat * 16777216 + a.toNat * 65536 + b.toNat * 256 + c.toNat := by
    simp only [beNat, List.foldl_cons, List.foldl_nil]
    omega
  unfold sext24 signed24
  simp only [hsign]
  by_cases ha : 128 ≤ a.toNat
  · simp only [if_pos ha, hvalue, BitVec.toInt_eq_toNat_cond, BitVec.toNat_ofNat, BitVec.ofNat_eq_ofNat]
    omega
  · simp only [if_neg ha, hvalue, BitVec.toInt_eq_toNat_cond, BitVec.toNat_ofNat, BitVec.ofNat_eq_ofNat]
    omega

theorem signed24_inRange (a b c : Byte) : -8388608 ≤ signed24 a b c ∧ signed24 a b c ≤ 8388607 := by
  unfold signed24
  dsimp only
  split <;> omega

/-- SEXT24 of three bytes is in range (R193). -/
theorem sext24_inRange (r : List Byte) (h : r.length = 3) : Config.lostMin ≤ sext24 r ∧ sext24 r ≤ Config.lostMax := by
  obtain ⟨a, b, c, rfl⟩ := List.length_eq_three.mp h
  rw [sext24_eq_signed24]
  exact signed24_inRange a b c

/-- DECODE_RR gives legal Receiver Reports (R41, R193). -/
theorem decodeRr_legal (payload : List Byte) (count : BitVec 5) (r : ReceiverReport)
    (h : decodeRr payload count = some r) : r.legal = true := by
  unfold decodeRr at h
  split at h
  · rename_i hlen
    cases h
    have hfits : count.toNat ≤ 31 := by omega
    have hblocks : ∀ i, i < count.toNat → (slice (slice payload (4 + 24 * i) 24) 5 3).length = 3 := by
      intro i hi
      simp only [slice, List.length_take, List.length_drop]
      simp only [rrBodySize, Config.blockBytes] at hlen
      omega
    simpa [ReceiverReport.legal, ReceiverReport.fits, hfits, ReportBlock.inRange, decodeBlock] using
      fun i hi => sext24_inRange _ (hblocks i hi)
  · cases h

/-! ## What one packet can append -/

/-- A framed packet gives at most one record, exactly one under OPAQUE, and only legal ones (R40 to R43, R144). -/
theorem packetRecords_ok (policy : Config.Policy) (h : Header) (trimmed : List Byte) (recs : List Packet)
    (e : packetRecords policy h trimmed = .ok recs) :
    recs.length ≤ 1 ∧ (policy = .keepOpaque → recs.length = 1) ∧ ∀ p ∈ recs, p.legalUnder policy = true := by
  unfold packetRecords at e
  split at e
  · split at e
    · cases e
    · rename_i r hr
      cases e
      simp [Packet.legalUnder, decodeRr_legal _ _ r hr]
  · rename_i hpt
    split at e <;> cases e
    · simp
    · simpa [Packet.legalUnder] using hpt

theorem packetRecords_error (policy : Config.Policy) (h : Header) (trimmed : List Byte) (k : ErrorKind)
    (e : packetRecords policy h trimmed = .error k) : k = .invalidReceiverReportLength := by
  unfold packetRecords at e
  split at e
  · split at e <;> cases e
    rfl
  · split at e <;> cases e

/-- A packet that decodes has been framed and trimmed, and hands over what `packetRecords` gives (R133). -/
theorem onePacket_ok (policy : Config.Policy) (bs : List Byte) (recs : List Packet) (rest : List Byte)
    (e : onePacket policy bs = .ok (recs, rest)) : ∃ h trimmed, packetRecords policy h trimmed = .ok recs := by
  unfold onePacket at e
  split at e
  · dsimp only at e
    split at e
    · cases e
    split at e
    · cases e
    split at e
    · cases e
    split at e <;> cases e
    exact ⟨_, _, ‹_›⟩
  · cases e

/-- OutOfRange is no error of a DECODE (R220, R226). -/
theorem onePacket_error (policy : Config.Policy) (bs : List Byte) (k : ErrorKind) (e : onePacket policy bs = .error k) :
    k ≠ .outOfRange := by
  unfold onePacket at e
  split at e
  · dsimp only at e
    split at e
    · cases e; simp
    split at e
    · cases e; simp
    split at e
    · cases e; simp
    split at e
    · rename_i hp
      cases e
      simp [packetRecords_error _ _ _ _ hp]
    · cases e
  · cases e; simp

/-- Fewer than four bytes are no packet (R123). -/
theorem onePacket_short (policy : Config.Policy) (bs : List Byte) (h : bs.length < 4) :
    onePacket policy bs = .error .truncated := by
  unfold onePacket
  split
  · simp at h; omega
  · rfl

/-! ## The packet step, piece by piece -/

/-- The dispatcher of a version-2 header: type 201 is decoded, every other type is skipped (R133 to R140). -/
theorem dispatcher_toInstr (h : Header) (hv : h.v = 2) :
    dispatcher h.toInstr h = if h.pt = Config.ptRr then dispatchRr else skipPacket h.pt := by
  obtain ⟨v, p, count, pt, length⟩ := h
  subst hv
  change dispatcher (selectType p count pt length) _ = _
  unfold selectType
  split
  · subst_vars; rfl
  split
  · subst_vars; rfl
  repeat' split
  all_goals rfl

/-- A decoded RR hands over its records, or raises InvalidReceiverReportLength (R134, R225). -/
theorem dispatchRr_payloadSliced (s : State) (h : Header) (c n m : Nat) (hn : s.work.pktIndex = some n)
    (hl : c + 4 + m ≤ s.ibufLen) :
    dispatchRr (payloadSliced s h c (c + 4 + m)) =
      match decodeRr (ibufBytes s (c + 4) m) h.count with
      | none => .raised (raiseError .invalidReceiverReportLength (.inIbuf c n) (payloadSliced s h c (c + 4 + m)))
      | some r => appendOut (.receiverReport r) { payloadSliced s h c (c + 4 + m) with
          work := { (payloadSliced s h c (c + 4 + m)).work with blkIndex := blkAfter s.work.blkIndex h.count.toNat } } := by
  have hr : raiseHere .invalidReceiverReportLength (payloadSliced s h c (c + 4 + m)) = _ := raiseHere_eq _ _ c n rfl hn
  unfold dispatchRr
  rw [show (payloadSliced s h c (c + 4 + m)).work.hdr = some h from rfl, need_some,
    withPayload_payloadSliced s h c m _ hl, hr]
  rfl

/-- A skipped packet appends nothing under DROP and its trimmed payload under OPAQUE (R135 to R140). -/
theorem skipPacket_payloadSliced (s : State) (h : Header) (pt : Byte) (c m : Nat) (hl : c + 4 + m ≤ s.ibufLen) :
    skipPacket pt (payloadSliced s h c (c + 4 + m)) = .go { payloadSliced s h c (c + 4 + m) with
      out := s.out ++ match s.cfg.policy with
        | .drop => []
        | .keepOpaque => [.opaqueRecord pt (ibufBytes s (c + 4) m)] } := by
  have hcfg : (payloadSliced s h c (c + 4 + m)).cfg = s.cfg := rfl
  unfold skipPacket
  rw [hcfg]
  cases s.cfg.policy with
  | drop => simp [payloadSliced]
  | keepOpaque => rw [withPayload_payloadSliced s h c m _ hl]; rfl

/-- The bytes still to be read, when a header is among them. -/
theorem ibufBytes_header (s : State) (c : Nat) (h4 : 4 ≤ s.ibufLen - c) :
    ibufBytes s c (s.ibufLen - c) = ibufByte s c :: ibufByte s (c + 1) :: ibufByte s (c + 2) :: ibufByte s (c + 3) ::
      ibufBytes s (c + 4) (s.ibufLen - (c + 4)) := by
  rw [show s.ibufLen - c = 4 + (s.ibufLen - (c + 4)) by omega, ibufBytes_add, ibufBytes_four]
  rfl

/-- Where four bytes remain, the step runs the row of the header at CUR (R124, R133). -/
theorem fetchPacket_header (s : State) (c : Nat) (h : Header) (h4 : 4 ≤ s.ibufLen - c)
    (hh : h = Header.ofBytes (ibufByte s c) (ibufByte s (c + 1)) (ibufByte s (c + 2)) (ibufByte s (c + 3))) :
    fetchPacket c s = packetStep h (dispatcher h.toInstr h) s := by
  unfold fetchPacket
  rw [if_pos h4, memRead_inside s c _ (by simp only [Config.hdrBytes]; omega), Config.hdrBytes, ibufBytes_four]
  simp only [decode, ← hh]
  exact exec_packet _ h s h.toInstr_view.1

/-- With fewer than four bytes left the step raises Truncated (R123, R222). -/
theorem fetchPacket_short (s : State) (c n : Nat) (hc : s.work.cur = some c) (hn : s.work.pktIndex = some n)
    (h4 : s.ibufLen - c < 4) :
    fetchPacket c s = .next (raiseError .truncated (.inIbuf c n) { s with work := { s.work with pktStart := some c } }) := by
  unfold fetchPacket headerPresent
  simp [Nat.not_le.mpr h4, hc, hn, raiseHere]

/-! ## Working registers without a value (R28) -/

theorem packetStep_noCur (h : Header) (dispatch : State → SubStep) (s : State) (hc : s.work.cur = none) :
    packetStep h dispatch s = .fault (.noValue .cur) := by
  simp [packetStep, frameHeader, headerPresent, hc]

theorem raiseHere_noPktStart (k : ErrorKind) (s : State) (hs : s.work.pktStart = none) :
    raiseHere k s = .stop (.noValue .pktStart) := by
  simp [raiseHere, hs]

theorem raiseHere_noPktIndex (k : ErrorKind) (s : State) (hs : s.work.pktStart.isSome = true)
    (hn : s.work.pktIndex = none) : raiseHere k s = .stop (.noValue .pktIndex) := by
  obtain ⟨c, hc⟩ := Option.isSome_iff_exists.mp hs
  simp [raiseHere, hc, hn]

theorem endPacket_noPktIndex (s : State) (hn : s.work.pktIndex = none) : endPacket s = .stop (.noValue .pktIndex) := by
  simp [endPacket, hn]

theorem raiseOutOfRange_noBlkIndex (s : State) (hb : s.work.blkIndex = none) :
    raiseOutOfRange s = .stop (.noValue .blkIndex) := by
  simp [raiseOutOfRange, hb]

/-- With no packet index to raise at, the stripper trims the payload or stops. -/
theorem stripPadding_noPktIndex (h : Header) (s : State) (c : Nat) (hn : s.work.pktIndex = none)
    (hl : c + 4 + payloadSize h ≤ s.ibufLen) :
    stripPadding (payloadSliced s h c (c + 4 + payloadSize h)) = .stop (.noValue .pktIndex) ∨
    ∃ m, m ≤ payloadSize h ∧
      stripPadding (payloadSliced s h c (c + 4 + payloadSize h)) = .go (payloadSliced s h c (c + 4 + m)) := by
  have hraise : raiseHere .invalidPadding (payloadSliced s h c (c + 4 + payloadSize h)) = .stop (.noValue .pktIndex) :=
    raiseHere_noPktIndex _ _ rfl hn
  have hsize : c + 4 + payloadSize h - (c + 4) = payloadSize h := by omega
  unfold stripPadding
  rw [show (payloadSliced s h c (c + 4 + payloadSize h)).work.hdr = some h from rfl, need_some]
  by_cases hp : paddingFlag h = true
  · rw [if_pos hp, show (payloadSliced s h c (c + 4 + payloadSize h)).work.payStart = some (c + 4) from rfl, need_some,
      show (payloadSliced s h c (c + 4 + payloadSize h)).work.payEnd = some (c + 4 + payloadSize h) from rfl, need_some]
    simp only [hsize, hraise]
    by_cases h0 : 0 < payloadSize h
    · rw [if_pos h0, memRead_inside _ _ _ (by change _ ≤ s.ibufLen; omega), needBytes_ok]
      split
      · rename_i hb
        exact .inr ⟨_, Nat.sub_le _ _, by rw [Nat.add_sub_assoc hb.2]; rfl⟩
      · exact .inl rfl
    · exact .inl (if_neg h0)
  · exact .inr ⟨_, Nat.le_refl _, if_neg hp⟩

/-- Every dispatcher's packet ends by counting itself, or raises (R141). -/
theorem dispatcher_noPktIndex (i : Instr) (h : Header) (s : State) (c m : Nat) (hn : s.work.pktIndex = none)
    (hl : c + 4 + m ≤ s.ibufLen) :
    (dispatcher i h (payloadSliced s h c (c + 4 + m))).andThen endPacket = .stop (.noValue .pktIndex) := by
  have hskip : (skipPacket h.pt (payloadSliced s h c (c + 4 + m))).andThen endPacket = .stop (.noValue .pktIndex) := by
    rw [skipPacket_payloadSliced s h _ c m hl, andThen_go]
    exact endPacket_noPktIndex _ hn
  have hrr : (dispatchRr (payloadSliced s h c (c + 4 + m))).andThen endPacket = .stop (.noValue .pktIndex) := by
    unfold dispatchRr
    rw [show (payloadSliced s h c (c + 4 + m)).work.hdr = some h from rfl, need_some,
      withPayload_payloadSliced s h c m _ hl]
    split
    · rw [raiseHere_noPktIndex _ (payloadSliced s h c (c + 4 + m)) rfl hn, andThen_stop]
    · exact endPacket_noPktIndex _ hn
  cases i with
  | rr => exact hrr
  | _ => exact hskip

/-- A packet needs a packet index to raise at or to count (R222 to R225, R141). -/
theorem packetStep_noPktIndex (i : Instr) (h : Header) (s : State) (c : Nat) (hc : s.work.cur = some c)
    (hn : s.work.pktIndex = none) : packetStep h (dispatcher i h) s = .fault (.noValue .pktIndex) := by
  have hraise (k : ErrorKind) (w : Work) (hs : w.pktStart.isSome = true) (hi : w.pktIndex = none) :
      raiseHere k { s with work := w } = .stop (.noValue .pktIndex) := raiseHere_noPktIndex k _ hs hi
  unfold packetStep frameHeader headerPresent
  rw [hc, need_some]
  by_cases h4 : 4 ≤ s.ibufLen - c
  · simp only [Config.hdrBytes, if_pos h4, andThen_go, latchHeader, checkVersion, need_some, Config.version,
      BitVec.ofNat_eq_ofNat]
    by_cases hv : h.v = 2#2
    · simp only [if_pos hv, andThen_go, passHeader, hc, need_some, slicePayload]
      by_cases hb : c + 4 + payloadSize h ≤ s.ibufLen
      · simp only [Config.hdrBytes, if_pos hb, andThen_go]
        change (((stripPadding (payloadSliced s h c (c + 4 + payloadSize h))).andThen (dispatcher i h)).andThen
          endPacket).outcome = _
        rcases stripPadding_noPktIndex h s c hn hb with hs | ⟨m, hm, hs⟩
        · rw [hs]; rfl
        · rw [hs, andThen_go, dispatcher_noPktIndex i h s c m hn (by omega)]; rfl
      · simp [hb, hraise, hn]
    · simp [hv, hraise, hn]
  · simp [h4, hraise, hn]

theorem fetchPacket_noPktIndex (s : State) (c : Nat) (hc : s.work.cur = some c) (hn : s.work.pktIndex = none) :
    fetchPacket c s = .fault (.noValue .pktIndex) := by
  by_cases h4 : 4 ≤ s.ibufLen - c
  · rw [fetchPacket_header s c _ h4 rfl]
    exact packetStep_noPktIndex _ _ s c hc hn
  · simp [fetchPacket, headerPresent, raiseHere, h4, hc, hn]

theorem trunc24_outside (v : Int) (hv : v < -8388608 ∨ 8388607 < v) : trunc24 v = none := by
  obtain ⟨hlo, hhi, -⟩ | ⟨-, h⟩ := trunc24_cases v
  · simp only [Config.lostMin, Config.lostMax] at hlo hhi
    omega
  · exact h

/-- DECODE_RR of a payload of another size raises (R161). -/
theorem exec_decodeRr_wrongSize (payload : List Byte) (count : BitVec 5) (s : State)
    (h : payload.length ≠ 4 + 24 * count.toNat) :
    exec (.decodeRr payload count) s = (raiseHere .invalidReceiverReportLength s).outcome := by
  obtain ⟨hlen, -⟩ | ⟨-, hnone⟩ := decodeRr_cases payload count
  · exact absurd hlen h
  · change execDecodeRr payload count s = _
    simp [execDecodeRr, hnone]

/-! ## The sequencer, the host's turn and the host port -/

/-- CMD = 01 names the running DECODE (R30). -/
theorem sequencer_decode (s : State) (h : s.cmd = 1) : sequencer s = decodeRun s := by
  simp [sequencer, h]

/-- CMD = 10 names the running ENCODE (R30). -/
theorem sequencer_encode (s : State) (h : s.cmd = 2) : sequencer s = encodeRun s := by
  simp [sequencer, h]

/-- Only a CMD that names an operation has a next step while BUSY (log 28). -/
theorem sequencer_next_cmd (s t : State) (e : sequencer s = .next t) : s.cmd = 1 ∨ s.cmd = 2 := by
  unfold sequencer at e
  split at e
  · exact .inl ‹_›
  · exact .inr ‹_›
  · cases e
  · cases e

/-- A host that asks nothing leaves a block that is not BUSY as it is (R261). -/
theorem step_idle (s : State) (hs : s.status ≠ .busy) (hh : s.host = []) : step s = .next s := by
  simp [step, hh, runOrWait, State.isBusy, hs]

/-- Any request but the wait is served at once, off the host's list. -/
theorem step_serves (s : State) (r : HostRequest) (rest : List HostRequest) (hh : s.host = r :: rest)
    (hr : r ≠ .waitNotBusy) : step s = serve r { s with host := rest } := by
  simp [step, hh, hostTurn, hr]

/-- A running DECODE whose host asks nothing takes a packet step below IBUF_LEN and ends at it (R120). -/
theorem step_decode (s : State) (c : Nat) (hs : s.status = .busy) (hcmd : s.cmd = 1) (hh : s.host = [])
    (hc : s.work.cur = some c) : step s = if c < s.ibufLen then fetchPacket c s else .next (finishDecode s) := by
  rw [step_running s hs (by simp [State.hostWaits, hh]), sequencer_decode s hcmd]
  simp [decodeRun, hc]

theorem whenNotBusy_busy (s : State) (r : Host.Outcome State Fault Refusal) (h : s.status = .busy) :
    whenNotBusy s r = .refused .hostAccessWhileBusy := by
  simp [whenNotBusy, State.isBusy, h]

theorem whenNotBusy_idle (s : State) (r : Host.Outcome State Fault Refusal) (h : s.status ≠ .busy) :
    whenNotBusy s r = r := by
  simp [whenNotBusy, State.isBusy, h]

/-- While not BUSY, a request that touches a store or a register has its effect (R31). -/
theorem step_serves_idle (s : State) (r : HostRequest) (rest : List HostRequest) (o : Host.Outcome State Fault Refusal)
    (hh : s.host = r :: rest) (hr : r ≠ .waitNotBusy) (hs : s.status ≠ .busy)
    (ho : serve r { s with host := rest } = whenNotBusy { s with host := rest } o) : step s = o :=
  (step_serves s r rest hh hr).trans (ho.trans (whenNotBusy_idle { s with host := rest } o hs))

theorem whenNotBusy_fault (s : State) (r : Host.Outcome State Fault Refusal) (f : Fault)
    (e : whenNotBusy s r = .fault f) : s.status ≠ .busy ∧ r = .fault f := by
  by_cases hb : s.status = .busy
  · rw [whenNotBusy_busy s r hb] at e
    cases e
  · exact ⟨hb, whenNotBusy_idle s r hb ▸ e⟩

theorem outReadable_iff (s : State) : outReadable s = true ↔ s.status = .done ∧ s.cmd = 1 := by
  simp [outReadable]

theorem obufReadable_iff (s : State) : obufReadable s = true ↔ s.status = .done ∧ s.cmd = 2 := by
  simp [obufReadable]

theorem hostReadOut_readable (s : State) (k : Nat) (p : Packet) (hr : s.status = .done ∧ s.cmd = 1)
    (hp : s.out[k]? = some p) : hostReadOut k s = returnToHost (.record p) s := by
  simp [hostReadOut, (outReadable_iff s).mpr hr, hp]

theorem hostReadObuf_readable (s : State) (a : Nat) (b : Byte) (hr : s.status = .done ∧ s.cmd = 2) (ha : a < s.obufLen)
    (hb : Store.read s.obuf a = some b) : hostReadObuf a s = returnToHost (.byte b) s := by
  simp [hostReadObuf, (obufReadable_iff s).mpr hr, ha, hb]

theorem hostReadOut_next (s t : State) (i : Nat) (e : hostReadOut i s = .next t) :
    ∃ p, returnToHost (.record p) s = .next t := by
  unfold hostReadOut at e
  split at e
  · split at e
    · exact ⟨_, e⟩
    · cases e
  · cases e

theorem hostReadObuf_next (s t : State) (a : Nat) (e : hostReadObuf a s = .next t) :
    ∃ b, returnToHost (.byte b) s = .next t := by
  unfold hostReadObuf at e
  split at e
  · split at e
    · exact ⟨_, e⟩
    · cases e
  · cases e

theorem admits_of_over (c : Config.Cfg) (n b : Nat) (hb : c.bufMax = some b) (h : b < n) : c.admits n = false := by
  simp [Config.Cfg.admits, hb, h]

theorem statusCode_iff (st : Status) :
    (st.code.toNat = 0 ↔ st = .idle) ∧ (st.code.toNat = 1 ↔ st = .busy) ∧ (st.code.toNat = 2 ↔ st = .done) ∧
      (st.code.toNat = 3 ↔ st = .error) := by
  cases st <;> decide

theorem kindCode_iff (e : ErrRegs) :
    (e.kindCode.toNat = 0 ↔ e.kind = none) ∧ (e.kindCode.toNat = 1 ↔ e.kind = some .truncated) ∧
      (e.kindCode.toNat = 2 ↔ e.kind = some .invalidVersion) ∧ (e.kindCode.toNat = 3 ↔ e.kind = some .invalidPadding) ∧
      (e.kindCode.toNat = 4 ↔ e.kind = some .invalidReceiverReportLength) ∧
      (e.kindCode.toNat = 5 ↔ e.kind = some .outOfRange) := by
  unfold ErrRegs.kindCode
  cases e.kind with
  | none => decide
  | some k => cases k <;> decide

/-! ## The commands -/

theorem execDecode_busy (s : State) (h : s.status = .busy) : execDecode s = .refused .commandWhileBusy := by
  simp [execDecode, State.isBusy, h]

theorem execDecode_starts (s : State) (h : s.status ≠ .busy) (ha : s.cfg.admits s.ibufLen = true) :
    execDecode s = .next (beginDecode s) := by
  simp [execDecode, State.isBusy, h, ha]

theorem execDecode_over (s : State) (h : s.status ≠ .busy) (ha : s.cfg.admits s.ibufLen = false) :
    execDecode s = .refused .ibufLenOverMax := by
  simp [execDecode, State.isBusy, h, ha]

theorem execEncode_busy (s : State) (h : s.status = .busy) : execEncode s = .refused .commandWhileBusy := by
  simp [execEncode, State.isBusy, h]

theorem execEncode_starts (s : State) (rs : List ReceiverReport) (h : s.status ≠ .busy)
    (ha : acceptPackets 0 (pinRecords s) = .ok rs) : execEncode s = .next (beginEncode s) := by
  simp [execEncode, State.isBusy, h, ha]

theorem execEncode_refuses (s : State) (e : Refusal) (h : s.status ≠ .busy)
    (ha : acceptPackets 0 (pinRecords s) = .error e) : execEncode s = .refused e := by
  simp [execEncode, State.isBusy, h, ha]

/-- What `acceptPackets` refuses is an Opaque record or too many reports (R171). -/
theorem acceptPackets_error (ps : List Packet) (k : Nat) (e : Refusal) (h : acceptPackets k ps = .error e) :
    ∃ j, e = .encodeOpaque j ∨ e = .encodeTooManyReports j := by
  induction ps generalizing k with
  | nil => simp [acceptPackets] at h
  | cons p ps ih =>
    cases p with
    | opaqueRecord pt payload => exact ⟨k, .inl (by simpa [acceptPackets] using h.symm)⟩
    | receiverReport r =>
      simp only [acceptPackets] at h
      split at h
      · split at h
        · rename_i e' he
          cases h
          exact ih (k + 1) he
        · cases h
      · exact ⟨k, .inr (by simpa using h.symm)⟩

/-- ENCODE accepts PIN exactly when every record below PIN_COUNT is a Receiver Report of at most 31 reports (R171). -/
theorem acceptPackets_pinRecords (s : State) : (∃ rs, acceptPackets 0 (pinRecords s) = .ok rs) ↔
    ∀ k, k < s.pinCount → ∃ r, pinRecord s k = .receiverReport r ∧ r.reports.length ≤ 31 := by
  constructor
  · rintro ⟨rs, ha⟩ k hk
    obtain ⟨hps, hfit⟩ := acceptPackets_sound _ rs 0 ha
    have hmem : pinRecord s k ∈ pinRecords s := List.mem_map.mpr ⟨k, by simpa using hk, rfl⟩
    rw [hps] at hmem
    obtain ⟨r, hr, he⟩ := List.mem_map.mp hmem
    exact ⟨r, he.symm, by simpa [ReceiverReport.fits] using hfit r hr⟩
  · intro h
    have hall : ∀ p ∈ pinRecords s, ∃ r : ReceiverReport, r.fits = true ∧ Packet.receiverReport r = p := by
      intro p hp
      obtain ⟨k, hk, rfl⟩ := List.mem_map.mp hp
      obtain ⟨r, hr, hl⟩ := h k (by simpa using hk)
      exact ⟨r, by simpa [ReceiverReport.fits] using hl, hr.symm⟩
    have hmap : pinRecords s ∈ Set.range (List.map Packet.receiverReport) := by
      rw [Set.range_list_map]
      exact fun p hp => (hall p hp).imp fun _ hr => hr.2
    obtain ⟨rs, hrs⟩ := hmap
    refine ⟨rs, hrs ▸ acceptPackets_ok rs (fun r hr => ?_) 0⟩
    obtain ⟨q, hq, he⟩ := hall (.receiverReport r) (by rw [← hrs]; exact List.mem_map_of_mem hr)
    cases he
    exact hq

theorem exec_decode_next (s t : State) (e : exec .decode s = .next t) : t = beginDecode s := by
  obtain ⟨-, ⟨-, -, ht⟩ | ⟨hcode, -⟩⟩ := exec_command_next 1 s t e
  · exact ht
  · exact absurd hcode (by decide)

/-- A host command is started or refused; it never faults. -/
theorem exec_command_ne_fault (code : BitVec 2) (s : State) (f : Fault) : exec (decodeCmd code) s ≠ .fault f := by
  have codes : ∀ c : BitVec 2, c = 0 ∨ c = 1 ∨ c = 2 ∨ c = 3 := by decide
  rcases codes code with rfl | rfl | rfl | rfl
  · change execCmdReserved00 s ≠ _
    simp [execCmdReserved00]
  · change execDecode s ≠ _
    unfold execDecode
    repeat' split
    all_goals simp
  · change execEncode s ≠ _
    unfold execEncode
    repeat' split
    all_goals simp
  · change execCmdReserved11 s ≠ _
    simp [execCmdReserved11]

/-- What the host port faults on: an index that the store does not have, of a block that is not BUSY (log 19). -/
theorem serve_fault (r : HostRequest) (s : State) (f : Fault) (e : serve r s = .fault f) :
    (∃ store index, f = .noSuchAddress store index) ∧ s.status ≠ .busy := by
  cases r with
  | writeIbuf offset bytes =>
    obtain ⟨hs, e⟩ := whenNotBusy_fault s _ f e
    unfold hostWriteIbuf at e
    split at e <;> cases e
    exact ⟨⟨_, _, rfl⟩, hs⟩
  | writeIbufLen n =>
    obtain ⟨-, e⟩ := whenNotBusy_fault s _ f e
    unfold hostWriteIbufLen at e
    split at e <;> cases e
  | writeCmd code => exact absurd e (exec_command_ne_fault code s f)
  | readOut index =>
    change hostReadOut index s = _ at e
    unfold hostReadOut at e
    split at e
    · rename_i hr
      split at e <;> cases e
      exact ⟨⟨_, _, rfl⟩, by simp [((outReadable_iff s).mp hr).1]⟩
    · cases e
  | readObuf offset =>
    change hostReadObuf offset s = _ at e
    unfold hostReadObuf at e
    split at e
    · rename_i hr
      split at e <;> cases e
      exact ⟨⟨_, _, rfl⟩, by simp [((obufReadable_iff s).mp hr).1]⟩
    · cases e
  | waitNotBusy | readState | hardwareReset => cases e
  | writePin | writePinCount | readErrKind | readErrOffset | readErrPkt | readErrBlk | readOutCount | readIbufLen
    | readPinCount | readObufLen => cases (whenNotBusy_fault s _ f e).2

/-- A running ENCODE with records that R171 admits ends: it raises OutOfRange or writes OBUF (R170, R172). -/
theorem encodeRun_accepted (s : State) (rs : List ReceiverReport) (ha : acceptPackets 0 (pinRecords s) = .ok rs) :
    (∃ k blk w, encodeRun s = .next (raiseError .outOfRange (.inPin k blk) { s with work := w })) ∨
    ∃ acc w, encodeRun s = .next (finishEncode acc { s with work := w }) := by
  unfold encodeRun
  simp only [ha]
  split
  · exact .inl ⟨_, _, _, rfl⟩
  · exact .inr ⟨_, _, rfl⟩

/-- The next states of a running ENCODE. -/
theorem encodeRun_next (s t : State) (e : encodeRun s = .next t) :
    (∃ k blk w, t = raiseError .outOfRange (.inPin k blk) { s with work := w }) ∨
    ∃ acc w, t = finishEncode acc { s with work := w } := by
  cases ha : acceptPackets 0 (pinRecords s) with
  | error r => simp [encodeRun, ha] at e
  | ok rs =>
    rcases encodeRun_accepted s rs ha with ⟨k, blk, w, h⟩ | ⟨acc, w, h⟩
    · cases h.symm.trans e
      exact .inl ⟨k, blk, w, rfl⟩
    · cases h.symm.trans e
      exact .inr ⟨acc, w, rfl⟩

/-! ## The invariant at each state update -/

theorem resetWith_inv (cfg : Config.Cfg) (resetCount : Nat) (host : List HostRequest) (hostData : Option HostValue) :
    (State.resetWith cfg resetCount host hostData).Inv := by
  constructor <;> simp [State.resetWith]
  cases hb : cfg.bufMax <;> simp [Config.Cfg.admits, hb]

/-- The invariant says nothing of what the host asks or has read. -/
theorem State.Inv.setHost {s : State} (h : s.Inv) (host : List HostRequest) (d : Option HostValue) :
    { s with host := host, hostData := d }.Inv :=
  { h with }

/-- While not BUSY, the invariant asks of the inputs their canonical form and R33's bound only. -/
theorem State.Inv.setInputs {s : State} (h : s.Inv) (hs : s.status ≠ .busy) (m : Memory) (len : Nat)
    (pin : List (Nat × Packet)) (count : Nat) (hm : Memory.wf m) (hp : Store.wf pin) (hl : s.cfg.admits len = true) :
    { s with ibuf := m, ibufLen := len, pin := pin, pinCount := count }.Inv :=
  { h with
    ibufWf := hm
    pinWf := hp
    lenAdmitted := hl
    cursor := fun hb => absurd hb hs
    slice := fun hb => absurd hb hs
    accepted := fun hb => absurd hb hs }

theorem State.Inv.beginDecode {s : State} (h : s.Inv) : (beginDecode s).Inv :=
  { h with
    operation := fun _ => .inl rfl
    cursor := fun _ _ => ⟨0, 0, rfl, rfl, Nat.zero_le _, rfl, Nat.le_refl _, Nat.le_refl _, fun _ => rfl⟩
    slice := fun _ _ a e ha => by cases ha
    outLegal := fun p hp => by cases hp
    accepted := fun _ hc => by cases hc
    noError := fun _ => rfl
    errorCounts := fun hs => by cases hs
    decodeError := fun hs => by cases hs
    encodeError := fun hs => by cases hs
    doneCount := fun hs => by cases hs }

theorem State.Inv.beginEncode {s : State} (h : s.Inv) (ha : ∃ rs, acceptPackets 0 (pinRecords s) = .ok rs) :
    (beginEncode s).Inv :=
  { h with
    operation := fun _ => .inr rfl
    cursor := fun _ hc => by cases hc
    slice := fun _ hc => by cases hc
    accepted := fun _ _ => ha
    noError := fun _ => rfl
    errorCounts := fun hs => by cases hs
    decodeError := fun hs => by cases hs
    encodeError := fun hs => by cases hs
    doneCount := fun hs => by cases hs
    obufListed := fun a ha => by cases ha }

theorem State.Inv.finishDecode {s : State} (h : s.Inv) (hs : s.status = .busy) (hc : s.cmd = 1) :
    (finishDecode s).Inv :=
  { h with
    operation := fun _ => .inl hc
    cursor := fun hb => by cases hb
    slice := fun hb => by cases hb
    accepted := fun hb => by cases hb
    noError := fun _ => h.noError (by simp [hs])
    errorCounts := fun he => by cases he
    decodeError := fun he => by cases he
    encodeError := fun he => by cases he
    doneCount := fun _ _ => rfl }

theorem State.Inv.finishEncode {s : State} (h : s.Inv) (hs : s.status = .busy) (hc : s.cmd = 2) (acc : List Byte)
    (w : Work) : (finishEncode acc { s with work := w }).Inv :=
  { h with
    obufWf := Store.wf_write _ _ _ h.obufWf
    operation := fun _ => .inr hc
    cursor := fun hb => by cases hb
    slice := fun hb => by cases hb
    accepted := fun hb => by cases hb
    noError := fun _ => h.noError (by simp [hs])
    errorCounts := fun he => by cases he
    decodeError := fun he => by cases he
    encodeError := fun he => by cases he
    doneCount := fun _ h1 => by simp [hc] at h1
    obufListed := fun a ha => by
      have ha : a < acc.length := ha
      simp [Store.read_write, ha] }

theorem State.Inv.raiseDecode {s : State} (h : s.Inv) (hc : s.cmd = 1) (k : ErrorKind) (hk : k ≠ .outOfRange)
    (offset pkt : Nat) (w : Work) : (raiseError k (.inIbuf offset pkt) { s with work := w }).Inv :=
  { h with
    operation := fun _ => .inl hc
    cursor := fun hb => by cases hb
    slice := fun hb => by cases hb
    outLegal := fun p hp => by cases hp
    accepted := fun hb => by cases hb
    noError := fun he => absurd rfl he
    errorCounts := fun _ => ⟨rfl, rfl⟩
    decodeError := fun _ _ => ⟨⟨k, rfl, hk⟩, rfl⟩
    encodeError := fun _ h2 => by simp [hc] at h2
    doneCount := fun hd => by cases hd
    obufListed := fun a ha => by cases ha }

theorem State.Inv.raiseEncode {s : State} (h : s.Inv) (hc : s.cmd = 2) (pkt : Nat) (blk : BitVec 5) (w : Work) :
    (raiseError .outOfRange (.inPin pkt blk) { s with work := w }).Inv :=
  { h with
    operation := fun _ => .inr hc
    cursor := fun hb => by cases hb
    slice := fun hb => by cases hb
    accepted := fun hb => by cases hb
    noError := fun he => absurd rfl he
    errorCounts := fun _ => ⟨rfl, rfl⟩
    decodeError := fun _ h1 => by simp [hc] at h1
    encodeError := fun _ _ => ⟨rfl, rfl⟩
    doneCount := fun hd => by cases hd
    obufListed := fun a ha => by cases ha }

/-! ## One packet of a running DECODE -/

/-- What a packet step that does not raise has done: the packet at `c` took its header and `size` more bytes, and appended
`recs` (R126 to R141). -/
structure PacketDone (s t : State) (c n size : Nat) (recs : List Packet) : Prop where
  frame : t = { s with out := s.out ++ recs, work := t.work }
  cur : t.work.cur = some (c + 4 + size)
  pktIndex : t.work.pktIndex = some (n + 1)
  inside : c + 4 + size ≤ s.ibufLen
  words : size % 4 = 0
  slice : ∃ e, t.work.payStart = some (c + 4) ∧ t.work.payEnd = some e ∧ c + 4 ≤ e ∧ e ≤ s.ibufLen

/-- What a packet step that raises has done (R230). -/
def PacketRaised (s t : State) (c n : Nat) (k : ErrorKind) : Prop :=
  ∃ w, t = raiseError k (.inIbuf c n) { s with work := w }

/-- Step 7 and the end of the packet step do what `packetRecords` says of the trimmed payload (R133 to R141). -/
theorem dispatch_packetRecords (s : State) (h : Header) (c n m : Nat) (hv : h.v = 2) (hn : s.work.pktIndex = some n)
    (hm : m ≤ payloadSize h) (hl : c + 4 + payloadSize h ≤ s.ibufLen) :
    ∃ t, ((dispatcher h.toInstr h (payloadSliced s h c (c + 4 + m))).andThen endPacket).outcome = .next t ∧
      match packetRecords s.cfg.policy h (ibufBytes s (c + 4) m) with
      | .error k => PacketRaised s t c n k
      | .ok recs => PacketDone s t c n (payloadSize h) recs := by
  have hin : c + 4 + m ≤ s.ibufLen := by omega
  have hwords : payloadSize h % 4 = 0 := by rw [payloadSize_eq]; omega
  rw [dispatcher_toInstr h hv]
  unfold packetRecords
  split
  · rw [dispatchRr_payloadSliced s h c n m hn hin]
    cases hd : decodeRr (ibufBytes s (c + 4) m) h.count with
    | none => exact ⟨_, rfl, _, rfl⟩
    | some r =>
      refine ⟨_, by simp [appendOut, endPacket, payloadSliced, hn]; rfl, ?_⟩
      exact ⟨rfl, rfl, rfl, hl, hwords, _, rfl, rfl, by omega, hin⟩
  · rw [skipPacket_payloadSliced s h h.pt c m hin]
    refine ⟨_, by simp [endPacket, payloadSliced, hn]; rfl, ?_⟩
    cases hp : s.cfg.policy <;>
      exact ⟨rfl, rfl, rfl, hl, hwords, _, rfl, rfl, by omega, hin⟩

/-- A packet step does what `onePacket` says of the bytes still to be read (R20, R121). -/
theorem fetchPacket_onePacket (s : State) (c n : Nat) (hc : s.work.cur = some c) (hn : s.work.pktIndex = some n) :
    ∃ t, fetchPacket c s = .next t ∧
      match onePacket s.cfg.policy (ibufBytes s c (s.ibufLen - c)) with
      | .error k => PacketRaised s t c n k
      | .ok (recs, rest) => ∃ size, PacketDone s t c n size recs ∧
          rest = ibufBytes s (c + 4 + size) (s.ibufLen - (c + 4 + size)) := by
  by_cases h4 : s.ibufLen - c < 4
  · rw [onePacket_short _ _ (by simpa using h4)]
    exact ⟨_, fetchPacket_short s c n hc hn h4, _, rfl⟩
  obtain ⟨h, hh⟩ : ∃ h, h = Header.ofBytes (ibufByte s c) (ibufByte s (c + 1)) (ibufByte s (c + 2)) (ibufByte s (c + 3)) :=
    ⟨_, rfl⟩
  rw [fetchPacket_header s c h (by omega) hh, packetStep_eq h _ s c n hc hn, ibufBytes_header s c (by omega), if_neg h4]
  simp only [onePacket, ← hh, Config.version, ibufBytes_length, BitVec.ofNat_eq_ofNat]
  by_cases hv : h.v = 2#2
  · rw [if_neg (not_not.mpr hv), if_neg (not_not.mpr hv)]
    by_cases hl : s.ibufLen < c + 4 + payloadSize h
    · rw [if_pos hl, if_pos (by omega)]
      exact ⟨_, rfl, _, rfl⟩
    rw [if_neg hl, if_neg (by omega), ibufBytes_take s _ _ _ (by omega)]
    cases ht : trimPayload h (ibufBytes s (c + 4) (payloadSize h)) with
    | none => exact ⟨_, rfl, _, rfl⟩
    | some trimmed =>
      obtain ⟨hm, htrim⟩ := trimPayload_ibufBytes s h _ _ _ ht
      obtain ⟨t, hstep, hres⟩ := dispatch_packetRecords s h c n trimmed.length hv hn hm (by omega)
      refine ⟨t, hstep, ?_⟩
      rw [← htrim] at hres
      dsimp only
      cases hp : packetRecords s.cfg.policy h trimmed with
      | error k => simpa [hp] using hres
      | ok recs =>
        rw [hp] at hres
        exact ⟨_, hres, by rw [ibufBytes_drop, Nat.sub_add_eq s.ibufLen (c + 4)]⟩
  · rw [if_pos hv, if_pos hv]
    exact ⟨_, rfl, _, rfl⟩

/-- A packet step that does not raise: the packet is done and the records are the policy's (R133 to R144). -/
def PacketStored (s t : State) (c n : Nat) : Prop :=
  ∃ size recs, PacketDone s t c n size recs ∧ recs.length ≤ 1 ∧ (s.cfg.policy = .keepOpaque → recs.length = 1) ∧
    ∀ p ∈ recs, p.legalUnder s.cfg.policy = true

/-- All that a packet step can do (R123 to R141): the packet is stored, or one of the first four errors is raised. -/
theorem fetchPacket_cases (s : State) (c n : Nat) (hc : s.work.cur = some c) (hn : s.work.pktIndex = some n) :
    ∃ t, fetchPacket c s = .next t ∧
      (PacketStored s t c n ∨ ∃ k, k ≠ .outOfRange ∧ PacketRaised s t c n k) := by
  obtain ⟨t, hstep, hres⟩ := fetchPacket_onePacket s c n hc hn
  refine ⟨t, hstep, ?_⟩
  cases hp : onePacket s.cfg.policy (ibufBytes s c (s.ibufLen - c)) with
  | error k =>
    rw [hp] at hres
    exact .inr ⟨k, onePacket_error _ _ k hp, hres⟩
  | ok r =>
    obtain ⟨recs, rest⟩ := r
    rw [hp] at hres
    obtain ⟨size, hdone, -⟩ := hres
    obtain ⟨h, trimmed, hr⟩ := onePacket_ok _ _ _ _ hp
    exact .inl ⟨size, recs, hdone, packetRecords_ok _ h trimmed recs hr⟩

/-- The next states of a running DECODE (R120): DONE at the end of the buffer, or one packet step. -/
theorem decodeRun_next (s t : State) (e : decodeRun s = .next t) :
    ∃ c, s.work.cur = some c ∧
      ((s.ibufLen ≤ c ∧ t = finishDecode s) ∨
        ∃ n, s.work.pktIndex = some n ∧
          (PacketStored s t c n ∨ ∃ k, k ≠ .outOfRange ∧ PacketRaised s t c n k)) := by
  unfold decodeRun at e
  cases hc : s.work.cur with
  | none => simp [hc] at e
  | some c =>
    refine ⟨c, rfl, ?_⟩
    simp only [hc] at e
    split at e
    · cases hn : s.work.pktIndex with
      | none =>
        rw [fetchPacket_noPktIndex s c hc hn] at e
        cases e
      | some n =>
        obtain ⟨t', he, hcases⟩ := fetchPacket_cases s c n hc hn
        cases he.symm.trans e
        exact .inr ⟨n, rfl, hcases⟩
    · cases e
      exact .inl ⟨by omega, rfl⟩

/-- A stored packet moves the cursor by a multiple of four, at least four, and appends at most one record (R22, R144). -/
theorem State.Inv.packetStored {s t : State} (h : s.Inv) (hs : s.status = .busy) (hcmd : s.cmd = 1) (c n : Nat)
    (hc : s.work.cur = some c) (hn : s.work.pktIndex = some n) (ht : PacketStored s t c n) : t.Inv := by
  obtain ⟨size, recs, hdone, hle, heq, hlegal⟩ := ht
  obtain ⟨c', n', hc', hn', -, hmod, hcount, hout, hopaque⟩ := h.cursor hs hcmd
  cases hc.symm.trans hc'
  cases hn.symm.trans hn'
  have hinside := hdone.inside
  have hwords := hdone.words
  obtain ⟨e, hstart, hend, hlo, hhi⟩ := hdone.slice
  have hcur := hdone.cur
  have hidx := hdone.pktIndex
  rw [hdone.frame]
  exact { h with
    cursor := fun _ _ => ⟨_, _, hcur, hidx, hinside, by omega, by omega, by simp only [List.length_append]; omega,
      fun hp => by simp only [List.length_append, hopaque hp, heq hp]⟩
    slice := fun _ _ a b ha hb => by
      cases hstart.symm.trans ha
      cases hend.symm.trans hb
      exact ⟨hlo, hhi⟩
    outLegal := fun p hp => (List.mem_append.mp hp).elim (h.outLegal p) (hlegal p)
    accepted := fun _ h2 => by simp [hcmd] at h2
    doneCount := fun hd => by simp [hs] at hd }

/-! ## What a step can do -/

/-- All that an accepted request can do (R30 to R39, R260). -/
inductive Served (s : State) (r : HostRequest) : State → Prop where
  /-- a wait or a read changes at most what the host has seen -/
  | read (d : Option HostValue) : Served s r { s with hostData := d }
  /-- a write to the inputs, while not BUSY -/
  | inputs (m : Memory) (len : Nat) (pin : List (Nat × Packet)) (count : Nat) (hs : s.status ≠ .busy)
      (hm : Memory.wf s.ibuf → Memory.wf m) (hp : Store.wf s.pin → Store.wf pin)
      (hl : s.cfg.admits s.ibufLen = true → s.cfg.admits len = true) :
      Served s r { s with ibuf := m, ibufLen := len, pin := pin, pinCount := count }
  /-- a DECODE begins -/
  | decode (hr : r = .writeCmd 1) (hs : s.status ≠ .busy) : Served s r (beginDecode s)
  /-- an ENCODE begins -/
  | encode (hr : r = .writeCmd 2) (hs : s.status ≠ .busy) (ha : ∃ rs, acceptPackets 0 (pinRecords s) = .ok rs) :
      Served s r (beginEncode s)
  /-- a hardware reset -/
  | reset (hr : r = .hardwareReset) : Served s r (hardwareReset s)

/-- A read that is served has only shown the host a value. -/
theorem served_of_returnToHost (s t : State) (r : HostRequest) (v : HostValue) (e : returnToHost v s = .next t) :
    Served s r t := by
  cases e
  exact .read _

theorem serve_next (r : HostRequest) (s t : State) (e : serve r s = .next t) : Served s r t := by
  have hread (v : HostValue) (e : whenNotBusy s (returnToHost v s) = .next t) : Served s r t :=
    served_of_returnToHost s t r v (whenNotBusy_next s t _ e).2
  cases r with
  | waitNotBusy => cases e; exact .read s.hostData
  | writeIbuf offset bytes =>
    obtain ⟨hs, e⟩ := whenNotBusy_next s t _ e
    unfold hostWriteIbuf at e
    split at e <;> cases e
    exact .inputs _ s.ibufLen s.pin s.pinCount hs (Store.wf_write _ _ _) id id
  | writeIbufLen n =>
    obtain ⟨hs, e⟩ := whenNotBusy_next s t _ e
    unfold hostWriteIbufLen at e
    split at e <;> cases e
    exact .inputs s.ibuf n s.pin s.pinCount hs id id fun _ => ‹_›
  | writePin index pkt =>
    obtain ⟨hs, e⟩ := whenNotBusy_next s t _ e
    cases e
    exact .inputs s.ibuf s.ibufLen _ s.pinCount hs id (Store.wf_write _ _ _) id
  | writePinCount n =>
    obtain ⟨hs, e⟩ := whenNotBusy_next s t _ e
    cases e
    exact .inputs s.ibuf s.ibufLen s.pin n hs id id id
  | writeCmd code =>
    obtain ⟨hs, ⟨rfl, -, rfl⟩ | ⟨rfl, ha, rfl⟩⟩ := exec_command_next code s t e
    · exact .decode rfl hs
    · exact .encode rfl hs ha
  | readState => exact served_of_returnToHost s t _ _ e
  | readOut index => exact served_of_returnToHost s t _ _ (hostReadOut_next s t index e).choose_spec
  | readObuf offset => exact served_of_returnToHost s t _ _ (hostReadObuf_next s t offset e).choose_spec
  | hardwareReset => cases e; exact .reset rfl
  | readErrKind | readErrOffset | readErrPkt | readErrBlk | readOutCount | readIbufLen | readPinCount | readObufLen =>
    exact hread _ e

/-- All that a step can do: it serves the host's next request, or the operation runs, or nothing happens. -/
theorem step_next (s t : State) (e : step s = .next t) :
    (Running s ∧ sequencer s = .next t) ∨ t = s ∨
      ∃ r rest, s.host = r :: rest ∧ Served { s with host := rest } r t := by
  by_cases h : s.status = .busy ∧ s.hostWaits = true
  · exact .inl ⟨h, step_running s h.1 h.2 ▸ e⟩
  · rcases step_not_running s h with ⟨-, hs⟩ | ⟨r, rest, hh, hs⟩
    · cases hs.symm.trans e
      exact .inr (.inl rfl)
    · exact .inr (.inr ⟨r, rest, hh, serve_next r _ t (hs ▸ e)⟩)

/-- From the invariant a running operation has a next state. -/
theorem sequencer_safe (s : State) (h : s.Inv) (hs : s.status = .busy) : Safe (sequencer s) := by
  rcases h.operation (by simp [hs]) with hc | hc
  · obtain ⟨c, n, hcur, hn, -⟩ := h.cursor hs hc
    rw [sequencer_decode s hc]
    unfold decodeRun
    simp only [hcur]
    split
    · exact (fetchPacket_cases s c n hcur hn).imp fun _ ht => ht.1
    · exact ⟨_, rfl⟩
  · obtain ⟨rs, ha⟩ := h.accepted hs hc
    rw [sequencer_encode s hc]
    obtain ⟨k, blk, w, e⟩ | ⟨acc, w, e⟩ := encodeRun_accepted s rs ha
    · exact ⟨_, e⟩
    · exact ⟨_, e⟩

theorem sequencer_keeps_inv (s t : State) (h : s.Inv) (hs : s.status = .busy) (e : sequencer s = .next t) : t.Inv := by
  rcases sequencer_next_cmd s t e with hc | hc
  · rw [sequencer_decode s hc] at e
    obtain ⟨c, hcur, ⟨-, rfl⟩ | ⟨n, hn, hstored | ⟨k, hk, w, rfl⟩⟩⟩ := decodeRun_next s t e
    · exact h.finishDecode hs hc
    · exact h.packetStored hs hc c n hcur hn hstored
    · exact h.raiseDecode hc k hk c n w
  · rw [sequencer_encode s hc] at e
    obtain ⟨k, blk, w, rfl⟩ | ⟨acc, w, rfl⟩ := encodeRun_next s t e
    · exact h.raiseEncode hc k blk w
    · exact h.finishEncode hs hc acc w

theorem served_keeps_inv (s t : State) (r : HostRequest) (h : s.Inv) (e : Served s r t) : t.Inv := by
  cases e with
  | read d => exact h.setHost s.host d
  | inputs m len pin count hs hm hp hl =>
    exact h.setInputs hs m len pin count (hm h.ibufWf) (hp h.pinWf) (hl h.lenAdmitted)
  | decode => exact h.beginDecode
  | encode _ _ ha => exact h.beginEncode ha
  | reset => exact resetWith_inv _ _ _ _

/-- A step of the running operation keeps the configuration, and STATE unless it ends the operation (R31, R34). -/
theorem sequencer_frame (s t : State) (e : sequencer s = .next t) :
    t.cfg = s.cfg ∧ (t.status = s.status ∨ t.status = .done ∨ t.status = .error) := by
  rcases sequencer_next_cmd s t e with hc | hc
  · rw [sequencer_decode s hc] at e
    obtain ⟨c, -, ⟨-, rfl⟩ | ⟨n, -, ⟨size, recs, hdone, -⟩ | ⟨k, -, w, rfl⟩⟩⟩ := decodeRun_next s t e
    · exact ⟨rfl, .inr (.inl rfl)⟩
    · rw [hdone.frame]
      exact ⟨rfl, .inl rfl⟩
    · exact ⟨rfl, .inr (.inr rfl)⟩
  · rw [sequencer_encode s hc] at e
    obtain ⟨k, blk, w, rfl⟩ | ⟨acc, w, rfl⟩ := encodeRun_next s t e
    · exact ⟨rfl, .inr (.inr rfl)⟩
    · exact ⟨rfl, .inr (.inl rfl)⟩

theorem served_cfg (s t : State) (r : HostRequest) (e : Served s r t) : t.cfg = s.cfg := by
  cases e <;> rfl

/-! ## The run of a DECODE -/

theorem run_succ_of_next (M : Host.Core) (s t : M.State) (n : Nat) (h : M.step s = .next t) :
    M.run (n + 1) s = M.run n t := by
  simp [Host.Core.run, h]

theorem run_step (s t : State) (n : Nat) (h : step s = .next t) :
    Sys2Proof.core.run (n + 1) s = Sys2Proof.core.run n t :=
  run_succ_of_next Sys2Proof.core s t n h

theorem scan_nil (policy : Config.Policy) (fuel offset pkt : Nat) : scan policy fuel offset pkt [] = .ok [] := by
  cases fuel <;> rfl

/-- One turn of the loop of R120 over bytes that are left. -/
theorem scan_error (policy : Config.Policy) (fuel offset pkt : Nat) (bs : List Byte) (k : ErrorKind) (hbs : bs ≠ [])
    (h : onePacket policy bs = .error k) :
    scan policy (fuel + 1) offset pkt bs = .error { kind := k, offset := offset, pkt := pkt } := by
  obtain ⟨b, bs, rfl⟩ := List.exists_cons_of_ne_nil hbs
  simp [scan, h]

theorem scan_ok (policy : Config.Policy) (fuel offset pkt : Nat) (bs rest : List Byte) (recs : List Packet)
    (hbs : bs ≠ []) (h : onePacket policy bs = .ok (recs, rest)) :
    scan policy (fuel + 1) offset pkt bs =
      (scan policy fuel (offset + (bs.length - rest.length)) (pkt + 1) rest).map (recs ++ ·) := by
  obtain ⟨b, bs, rfl⟩ := List.exists_cons_of_ne_nil hbs
  simp only [scan, h]
  cases scan policy fuel (offset + ((b :: bs).length - rest.length)) (pkt + 1) rest <;> rfl

/-- A DECODE that runs without an error so far, at packet `n` and offset `c`, with a host that asks nothing. -/
structure DecodesAt (s : State) (c n : Nat) : Prop where
  status : s.status = .busy
  cmd : s.cmd = 1
  host : s.host = []
  err : s.err = ErrRegs.zero
  cur : s.work.cur = some c
  pktIndex : s.work.pktIndex = some n

/-- The steps of a DECODE from an offset on do what `scan` says of the bytes still to be read, after the records that OUT
already holds (R20, R121). -/
theorem run_computes_scan (fuel : Nat) (s : State) (c n : Nat) (h : DecodesAt s c n) (hf : s.ibufLen - c ≤ fuel) :
    ∃ (m : Nat) (t : State), m ≤ (s.ibufLen - c) / 4 + 1 ∧ Sys2Proof.core.run m s = .next t ∧
      DecodeResultIs ((scan s.cfg.policy fuel c n (ibufBytes s c (s.ibufLen - c))).map (s.out ++ ·)) t := by
  induction fuel generalizing s c n with
  | zero =>
    have hstep := step_decode s c h.status h.cmd h.host h.cur
    rw [if_neg (by omega)] at hstep
    exact ⟨1, _, by omega, run_step s _ 0 hstep, rfl, (List.append_nil _).symm, by simp, h.err⟩
  | succ fuel ih =>
    have hstep := step_decode s c h.status h.cmd h.host h.cur
    by_cases hlt : c < s.ibufLen
    · rw [if_pos hlt] at hstep
      have hbs : ibufBytes s c (s.ibufLen - c) ≠ [] := by
        rw [← List.length_pos_iff, ibufBytes_length]
        omega
      obtain ⟨t, hfetch, hres⟩ := fetchPacket_onePacket s c n h.cur h.pktIndex
      rw [hfetch] at hstep
      cases hp : onePacket s.cfg.policy (ibufBytes s c (s.ibufLen - c)) with
      | error k =>
        rw [hp] at hres
        obtain ⟨w, rfl⟩ := hres
        rw [scan_error _ _ _ _ _ k hbs hp]
        exact ⟨1, _, by omega, run_step s _ 0 hstep, rfl, rfl, rfl⟩
      | ok r =>
        obtain ⟨recs, rest⟩ := r
        rw [hp] at hres
        obtain ⟨size, hdone, hrest⟩ := hres
        have hinside := hdone.inside
        obtain ⟨w, rfl⟩ : ∃ w, t = { s with out := s.out ++ recs, work := w } := ⟨t.work, hdone.frame⟩
        obtain ⟨m, u, hm, hrun, hu⟩ := ih { s with out := s.out ++ recs, work := w } (c + 4 + size) (n + 1)
          ⟨h.status, h.cmd, h.host, h.err, hdone.cur, hdone.pktIndex⟩ (by dsimp only; omega)
        refine ⟨m + 1, u, by dsimp only at hm; omega, (run_step s _ m hstep).trans hrun, ?_⟩
        have hoffset : c + (s.ibufLen - c - (s.ibufLen - (c + 4 + size))) = c + 4 + size := by omega
        rw [scan_ok _ _ _ _ _ rest recs hbs hp, hrest, ibufBytes_length, ibufBytes_length, hoffset]
        change DecodeResultIs ((scan s.cfg.policy fuel (c + 4 + size) (n + 1)
          (ibufBytes s (c + 4 + size) (s.ibufLen - (c + 4 + size)))).map (s.out ++ recs ++ ·)) u at hu
        cases hscan : scan s.cfg.policy fuel (c + 4 + size) (n + 1)
            (ibufBytes s (c + 4 + size) (s.ibufLen - (c + 4 + size))) with
        | error e => rwa [hscan] at hu
        | ok more =>
          rw [hscan] at hu
          simpa [Except.map] using hu
    · rw [if_neg hlt] at hstep
      rw [show s.ibufLen - c = 0 by omega, ibufBytes_zero, scan_nil]
      exact ⟨1, _, by omega, run_step s _ 0 hstep, rfl, (List.append_nil _).symm, by simp, h.err⟩

/-! ## Two DECODEs of the same input -/

/-- Two DECODEs of the same input that have come equally far: they agree on all that the host can observe and on all that
the next packet step reads (R46). -/
structure SameDecode (s₁ s₂ : State) : Prop where
  cmd₁ : s₁.cmd = 1
  cmd₂ : s₂.cmd = 1
  host₁ : s₁.host = []
  host₂ : s₂.host = []
  cfg : s₁.cfg = s₂.cfg
  ibufLen : s₁.ibufLen = s₂.ibufLen
  bytes : ∀ a, a < s₁.ibufLen → ibufByte s₁ a = ibufByte s₂ a
  status : s₁.status = s₂.status
  err : s₁.err = s₂.err
  outCount : s₁.outCount = s₂.outCount
  out : s₁.out = s₂.out
  cursor : s₁.status = .busy → ∃ c n, s₁.work.cur = some c ∧ s₂.work.cur = some c ∧
    s₁.work.pktIndex = some n ∧ s₂.work.pktIndex = some n

theorem SameDecode.observe {s₁ s₂ : State} (h : SameDecode s₁ s₂) :
    observeDecode (.next s₁) = observeDecode (.next s₂) := by
  simp [observeDecode, h.status, h.err, h.outCount, h.out]

/-- The bytes still to be read are the same. -/
theorem SameDecode.ibufBytes_eq {s₁ s₂ : State} (h : SameDecode s₁ s₂) (c : Nat) :
    ibufBytes s₁ c (s₁.ibufLen - c) = ibufBytes s₂ c (s₂.ibufLen - c) := by
  rw [← h.ibufLen]
  refine List.map_congr_left fun i hi => h.bytes _ ?_
  have := List.mem_range.mp hi
  omega

theorem SameDecode.finishDecode {s₁ s₂ : State} (h : SameDecode s₁ s₂) :
    SameDecode (finishDecode s₁) (finishDecode s₂) :=
  { h with
    status := rfl
    outCount := congrArg List.length h.out
    cursor := fun hb => by cases hb }

theorem SameDecode.raised {s₁ s₂ t₁ t₂ : State} {c n : Nat} {k : ErrorKind} (h : SameDecode s₁ s₂)
    (h₁ : PacketRaised s₁ t₁ c n k) (h₂ : PacketRaised s₂ t₂ c n k) : SameDecode t₁ t₂ := by
  obtain ⟨w₁, rfl⟩ := h₁
  obtain ⟨w₂, rfl⟩ := h₂
  exact { h with
    status := rfl
    err := rfl
    outCount := rfl
    out := rfl
    cursor := fun hb => by cases hb }

theorem SameDecode.stored {s₁ s₂ t₁ t₂ : State} {c n size : Nat} {recs : List Packet} (h : SameDecode s₁ s₂)
    (h₁ : PacketDone s₁ t₁ c n size recs) (h₂ : PacketDone s₂ t₂ c n size recs) : SameDecode t₁ t₂ := by
  obtain ⟨w₁, rfl⟩ : ∃ w, t₁ = { s₁ with out := s₁.out ++ recs, work := w } := ⟨t₁.work, h₁.frame⟩
  obtain ⟨w₂, rfl⟩ : ∃ w, t₂ = { s₂ with out := s₂.out ++ recs, work := w } := ⟨t₂.work, h₂.frame⟩
  exact { h with
    out := congrArg (· ++ recs) h.out
    cursor := fun _ => ⟨_, _, h₁.cur, h₂.cur, h₁.pktIndex, h₂.pktIndex⟩ }

/-- A step of each leaves them equally far: both take the packet that `onePacket` finds in the bytes they share. -/
theorem SameDecode.step {s₁ s₂ : State} (h : SameDecode s₁ s₂) :
    ∃ t₁ t₂, step s₁ = .next t₁ ∧ step s₂ = .next t₂ ∧ SameDecode t₁ t₂ := by
  by_cases hb : s₁.status = .busy
  · obtain ⟨c, n, hc₁, hc₂, hn₁, hn₂⟩ := h.cursor hb
    have hstep₁ := step_decode s₁ c hb h.cmd₁ h.host₁ hc₁
    have hstep₂ := step_decode s₂ c (h.status ▸ hb) h.cmd₂ h.host₂ hc₂
    by_cases hlt : c < s₁.ibufLen
    · rw [if_pos hlt] at hstep₁
      rw [if_pos (h.ibufLen ▸ hlt)] at hstep₂
      obtain ⟨t₁, ht₁, hres₁⟩ := fetchPacket_onePacket s₁ c n hc₁ hn₁
      obtain ⟨t₂, ht₂, hres₂⟩ := fetchPacket_onePacket s₂ c n hc₂ hn₂
      refine ⟨t₁, t₂, hstep₁.trans ht₁, hstep₂.trans ht₂, ?_⟩
      rw [← h.cfg, ← h.ibufBytes_eq c] at hres₂
      cases hp : onePacket s₁.cfg.policy (ibufBytes s₁ c (s₁.ibufLen - c)) with
      | error k =>
        rw [hp] at hres₁ hres₂
        exact h.raised hres₁ hres₂
      | ok r =>
        obtain ⟨recs, rest⟩ := r
        rw [hp] at hres₁ hres₂
        obtain ⟨size₁, hdone₁, hrest₁⟩ := hres₁
        obtain ⟨size₂, hdone₂, hrest₂⟩ := hres₂
        have hsize : size₁ = size₂ := by
          have hlen := congrArg List.length (hrest₁.symm.trans hrest₂)
          rw [ibufBytes_length, ibufBytes_length] at hlen
          have hin₁ := hdone₁.inside
          have hin₂ := hdone₂.inside
          have := h.ibufLen
          omega
        subst hsize
        exact h.stored hdone₁ hdone₂
    · rw [if_neg hlt] at hstep₁
      rw [if_neg (h.ibufLen ▸ hlt)] at hstep₂
      exact ⟨_, _, hstep₁, hstep₂, h.finishDecode⟩
  · exact ⟨s₁, s₂, step_idle s₁ hb h.host₁, step_idle s₂ (h.status ▸ hb) h.host₂, h⟩

theorem SameDecode.run {s₁ s₂ : State} (h : SameDecode s₁ s₂) (n : Nat) :
    observeDecode (Sys2Proof.core.run n s₁) = observeDecode (Sys2Proof.core.run n s₂) := by
  induction n generalizing s₁ s₂ with
  | zero => exact h.observe
  | succ n ih =>
    obtain ⟨t₁, t₂, h₁, h₂, ht⟩ := h.step
    rw [run_step s₁ t₁ n h₁, run_step s₂ t₂ n h₂]
    exact ih ht

/-- Two DECODEs start equal, whatever an earlier operation left (R46). -/
theorem SameDecode.start {s₁ s₂ : State} (hcfg : s₁.cfg = s₂.cfg) (hlen : s₁.ibufLen = s₂.ibufLen)
    (hbytes : ∀ a, a < s₁.ibufLen → ibufByte s₁ a = ibufByte s₂ a) (hh₁ : s₁.host = []) (hh₂ : s₂.host = []) :
    SameDecode (beginDecode s₁) (beginDecode s₂) where
  cmd₁ := rfl
  cmd₂ := rfl
  host₁ := hh₁
  host₂ := hh₂
  cfg := hcfg
  ibufLen := hlen
  bytes := hbytes
  status := rfl
  err := rfl
  outCount := rfl
  out := rfl
  cursor _ := ⟨0, 0, rfl, rfl, rfl, rfl⟩

end Sys2Proof.Machine

namespace Sys2Proof.StateProofs

open Sys2Proof.Machine Sys2Proof.Statements

/-! ## The invariant -/

/-- Settles O42: nothing runs and every store is empty after reset. -/
theorem resetMeetsTheInvariant : Obligations.ResetMeetsTheInvariant :=
  ⟨resetWith_inv _ _ _ _, resetWith_inv⟩

/-- Settles O43: each branch of `step_next` keeps the invariant. -/
theorem everyStepKeepsTheInvariant : Obligations.EveryStepKeepsTheInvariant := by
  intro s t h e
  rcases step_next s t e with ⟨hrun, e⟩ | rfl | ⟨r, rest, -, e⟩
  · exact sequencer_keeps_inv s t h hrun.1 e
  · exact h
  · exact served_keeps_inv _ t r (h.setHost rest s.hostData) e

/-! ## Commands -/

/-- Settles O3, by evaluating the decoder at the four codes. -/
theorem commandCodesAreDecoded : Obligations.CommandCodesAreDecoded := ⟨rfl, rfl, rfl, rfl⟩

/-- Settles O6: a CMD write is no wait, so it is served at once. -/
theorem stepRunsTheWrittenCommand : Obligations.StepRunsTheWrittenCommand :=
  fun s _ rest hh => step_serves s _ rest hh (by simp)

/-- Settles O17: `beginDecode` is the state that the statement writes out. -/
theorem decodeCommandStarts : Obligations.DecodeCommandStarts :=
  fun s hs ha => execDecode_starts s hs ha

/-- Settles O18: PIN's records pass R171's check, and `beginEncode` is the state that the statement writes out. -/
theorem encodeCommandStarts : Obligations.EncodeCommandStarts := by
  intro s hs hpin
  obtain ⟨rs, ha⟩ := (acceptPackets_pinRecords s).mpr hpin
  exact execEncode_starts s rs hs ha

/-- Settles O19: the reserved codes have this one meaning. -/
theorem reservedCommandsAreRefused : Obligations.ReservedCommandsAreRefused := fun _ => ⟨rfl, rfl⟩

/-- Settles O20: each request that breaks the protocol is served at once, and its clause of the host port refuses it. -/
theorem protocolBreachesAreRefused : Obligations.ProtocolBreachesAreRefused := by
  intro s r rest hh
  have served (hr : r ≠ .waitNotBusy) : step s = serve r { s with host := rest } := step_serves s r rest hh hr
  refine ⟨?reserved, ?busyCommand, ?busyWrite, ?busyRead, ?noOut, ?noObuf, ?longWrite, ?longDecode, ?badEncode⟩
  case reserved =>
    rintro (rfl | rfl) <;> exact served (by simp)
  case busyCommand =>
    rintro hs (rfl | rfl)
    · exact (served (by simp)).trans (execDecode_busy _ hs)
    · exact (served (by simp)).trans (execEncode_busy _ hs)
  case busyWrite =>
    rintro hs (⟨a, b, rfl⟩ | ⟨n, rfl⟩ | ⟨k, p, rfl⟩ | ⟨n, rfl⟩) <;>
      exact (served (by simp)).trans (whenNotBusy_busy _ _ hs)
  case busyRead =>
    intro hs hr
    simp only [List.mem_cons, List.not_mem_nil, or_false] at hr
    rcases hr with rfl | rfl | rfl | rfl | rfl | rfl | rfl | rfl <;>
      exact (served (by simp)).trans (whenNotBusy_busy _ _ hs)
  case noOut =>
    rintro hs ⟨k, rfl⟩
    exact (served (by simp)).trans (if_neg (mt (outReadable_iff _).mp hs))
  case noObuf =>
    rintro hs ⟨a, rfl⟩
    exact (served (by simp)).trans (if_neg (mt (obufReadable_iff _).mp hs))
  case longWrite =>
    rintro n b hs hb hlt rfl
    refine (step_serves_idle s _ rest _ hh (by simp) hs rfl).trans (if_neg ?_)
    simp [admits_of_over s.cfg n b hb hlt]
  case longDecode =>
    rintro b hs hb hlt rfl
    exact (served (by simp)).trans (execDecode_over _ hs (admits_of_over _ _ b hb hlt))
  case badEncode =>
    rintro hs rfl ⟨k, hk, hbad⟩
    cases ha : acceptPackets 0 (pinRecords { s with host := rest }) with
    | error e => exact ⟨e, (served (by simp)).trans (execEncode_refuses _ e hs ha), acceptPackets_error _ 0 e ha⟩
    | ok rs =>
      obtain ⟨q, hq, hlen⟩ := (acceptPackets_pinRecords { s with host := rest }).mp ⟨rs, ha⟩ k hk
      exact absurd (hbad q hq) (by omega)

/-! ## Steps -/

/-- Settles O45: from the invariant the sequencer has a next state, so what faults is the host port. -/
theorem onlyTheHostCanFault : Obligations.OnlyTheHostCanFault := by
  intro s f h e
  by_cases hrun : s.status = .busy ∧ s.hostWaits = true
  · obtain ⟨t, ht⟩ := sequencer_safe s h hrun.1
    rw [step_running s hrun.1 hrun.2, ht] at e
    cases e
  · rcases step_not_running s hrun with ⟨-, hs⟩ | ⟨r, rest, -, hs⟩
    · cases hs.symm.trans e
    · exact serve_fault r { s with host := rest } f (hs.symm.trans e)

/-- Settles O46: the packet step that is neither the last nor raises took a header and a multiple of four bytes. -/
theorem cursorOnlyMovesForward : Obligations.CursorOnlyMovesForward := by
  intro s t c h hrun hcmd hc e
  rw [step_running s hrun.1 hrun.2, sequencer_decode s hcmd] at e
  obtain ⟨c', hc', ⟨-, rfl⟩ | ⟨n, hn, ⟨size, recs, hdone, -⟩ | ⟨k, -, w, rfl⟩⟩⟩ := decodeRun_next s t e
  · exact .inl rfl
  · cases hc.symm.trans hc'
    obtain ⟨c'', n', hc'', -, -, hmod, -⟩ := h.cursor hrun.1 hcmd
    cases hc.symm.trans hc''
    have hwords := hdone.words
    exact .inr (.inr ⟨_, hdone.cur, by omega, hdone.inside, by omega, by simp [hn], by simp [hdone.pktIndex, hn]⟩)
  · exact .inr (.inl rfl)

/-- Settles O47: each branch of `step_next` makes one of R31's transitions. -/
theorem stateTransitions : Obligations.StateTransitions := by
  intro s t e
  rcases step_next s t e with ⟨hrun, e⟩ | rfl | ⟨r, rest, hh, e⟩
  · rcases (sequencer_frame s t e).2 with hs | hends
    · exact .inl hs
    · exact .inr (.inr (.inl ⟨hrun.1, hrun.2, hends⟩))
  · exact .inl rfl
  · cases e with
    | read | inputs => exact .inl rfl
    | decode hr hs => exact .inr (.inl ⟨hs, rfl, 1, rest, hr ▸ hh, .inl rfl⟩)
    | encode hr hs => exact .inr (.inl ⟨hs, rfl, 2, rest, hr ▸ hh, .inr rfl⟩)
    | reset hr => exact .inr (.inr (.inr ⟨rfl, rest, hr ▸ hh⟩))

/-- Settles O48: no branch of `step_next` writes the configuration. -/
theorem configurationIsStatic : Obligations.ConfigurationIsStatic := by
  intro s t e
  rcases step_next s t e with ⟨-, e⟩ | rfl | ⟨r, rest, -, e⟩
  · exact (sequencer_frame s t e).1
  · rfl
  · exact served_cfg { s with host := rest } t r e

/-! ## The run of a DECODE -/

/-- Settles O39: `run_computes_scan` from offset 0, where OUT is empty. -/
theorem decodeStepsComputeTheFunction : Obligations.DecodeStepsComputeTheFunction := by
  intro s hs ha hh
  obtain ⟨m, t, hm, hrun, ht⟩ := run_computes_scan s.ibufLen (beginDecode s) 0 0 ⟨rfl, rfl, hh, rfl, rfl, rfl⟩
    (Nat.sub_le _ _)
  refine ⟨beginDecode s, t, m, execDecode_starts s hs ha, hm, hrun, ?_⟩
  rw [decodeFunction, ibufBytes_length]
  change DecodeResultIs ((scan s.cfg.policy s.ibufLen 0 0 (ibufBytes s 0 s.ibufLen)).map id) t at ht
  rwa [Except.map_id] at ht

/-- Settles O40: the two runs stay equally far. -/
theorem decodeForgetsEarlierOperations : Obligations.DecodeForgetsEarlierOperations := by
  intro s₁ s₂ t₁ t₂ n hcfg hlen hbytes hh₁ hh₂ e₁ e₂
  rw [exec_decode_next s₁ t₁ e₁, exec_decode_next s₂ t₂ e₂]
  exact (SameDecode.start hcfg hlen hbytes hh₁ hh₂).run n

/-! ## The host port -/

/-- Settles O51: a reset is no wait, so it is served at once. -/
theorem hardwareResetFromAnyState : Obligations.HardwareResetFromAnyState :=
  fun s rest hh => ⟨hardwareReset { s with host := rest }, step_serves s _ rest hh (by simp),
    rfl, rfl, rfl, rfl, rfl, rfl, rfl, rfl, rfl, rfl⟩

/-- Settles O52: `Store.read_write` on IBUF. -/
theorem hostWritesIbufAndItsLength : Obligations.HostWritesIbufAndItsLength := by
  intro s rest hs
  refine ⟨fun offset bytes hh hadm => ?_, fun n hh hadm => ?_⟩
  · refine ⟨{ s with host := rest, ibuf := Store.write s.ibuf offset bytes },
      (step_serves_idle s _ rest _ hh (by simp) hs rfl).trans (if_pos hadm), ?_, ?_, rfl⟩
    · intro a hlo hhi
      simp [ibufByte, Store.read_write, hlo, hhi, show a - offset < bytes.length by omega]
    · intro a ha
      simp [ibufByte, Store.read_write, show ¬ (offset ≤ a ∧ a < offset + bytes.length) by omega]
  · exact (step_serves_idle s _ rest _ hh (by simp) hs rfl).trans (if_pos hadm)

/-- Settles O53: `Store.read_write` on PIN. -/
theorem hostWritesPinAndItsCount : Obligations.HostWritesPinAndItsCount := by
  intro s rest hs
  refine ⟨fun index pkt hh => ?_, fun n hh => step_serves_idle s _ rest _ hh (by simp) hs rfl⟩
  refine ⟨{ s with host := rest, pin := Store.write s.pin index [pkt] },
    step_serves_idle s _ rest _ hh (by simp) hs rfl, ?_, ?_, rfl⟩
  · simp [pinRecord, Store.read_write]
  · intro k hk
    have hother : ¬ (index ≤ k ∧ k < index + [pkt].length) := by
      rw [List.length_singleton]
      omega
    simp only [pinRecord, Store.read_write, if_neg hother]

/-- Settles O54: the invariant gives a record or byte at every index below the count. -/
theorem hostReadsResults : Obligations.HostReadsResults := by
  intro s rest h hs
  refine ⟨fun k hc hh hk => ?_, fun a hc hh ha => ?_⟩
  · rw [h.doneCount hs hc] at hk
    have hp : s.out[k]? = some s.out[k] := List.getElem?_eq_getElem hk
    exact ⟨_, hp, (step_serves s _ rest hh (by simp)).trans (hostReadOut_readable _ k _ ⟨hs, hc⟩ hp)⟩
  · obtain ⟨b, hb⟩ := Option.isSome_iff_exists.mp (h.obufListed a ha)
    exact ⟨b, hb, (step_serves s _ rest hh (by simp)).trans (hostReadObuf_readable _ a b ⟨hs, hc⟩ ha hb)⟩

/-- Settles O55: every read of a register while not BUSY returns the register. -/
theorem hostReadsTheRegisters : Obligations.HostReadsTheRegisters := by
  intro s rest
  have reads (r : HostRequest) (n : Nat) (hr : r ≠ .waitNotBusy) (hs : s.status ≠ .busy)
      (hv : serve r { s with host := rest } =
        whenNotBusy { s with host := rest } (returnToHost (.number n) { s with host := rest }))
      (hh : s.host = r :: rest) : ReadGives s rest n := step_serves_idle s r rest _ hh hr hs hv
  refine ⟨fun hh => ⟨s.status.code.toNat, step_serves s _ rest hh (by simp), statusCode_iff s.status⟩, fun hs => ?_⟩
  exact ⟨fun hh => ⟨s.err.kindCode.toNat, reads _ _ (by simp) hs rfl hh, kindCode_iff s.err⟩,
    reads _ _ (by simp) hs rfl, reads _ _ (by simp) hs rfl, reads _ _ (by simp) hs rfl, reads _ _ (by simp) hs rfl,
    reads _ _ (by simp) hs rfl, reads _ _ (by simp) hs rfl, reads _ _ (by simp) hs rfl⟩

/-! ## Working registers without a value -/

/-- Settles O56: every packet row is the one packet step; the internal operations read a register only to raise. -/
theorem aReadOfNoValueFaults : Obligations.AReadOfNoValueFaults := by
  refine ⟨?packets, ?running, ?decodeRr, ?trunc24, ?encodeBlock⟩
  case packets =>
    intro i h s hi
    rw [exec_packet i h s hi]
    refine ⟨packetStep_noCur h _ s, fun hc hn => ?_⟩
    obtain ⟨c, hc⟩ := Option.isSome_iff_exists.mp hc
    exact packetStep_noPktIndex i h s c hc hn
  case running =>
    intro s hrun hcmd hc
    rw [step_running s hrun.1 hrun.2, sequencer_decode s hcmd]
    simp [decodeRun, hc]
  case decodeRr =>
    intro payload count s hlen
    rw [exec_decodeRr_wrongSize payload count s hlen]
    exact ⟨fun hp => by rw [raiseHere_noPktStart _ s hp]; rfl,
      fun hp hn => by rw [raiseHere_noPktIndex _ s hp hn]; rfl⟩
  case trunc24 =>
    intro v s hv hb
    change execTrunc24 v s = _
    simp [execTrunc24, trunc24_outside v hv, raiseOutOfRange_noBlkIndex s hb]
  case encodeBlock =>
    intro b s hv hb
    change execEncodeBlock b s = _
    simp [execEncodeBlock, encodeBlock, trunc24_outside _ hv, raiseOutOfRange_noBlkIndex s hb]

end Sys2Proof.StateProofs
end

section
/-! PROOFS of the statements of 20_memory.md. What a packet row can do to the state is said once (`exec_packet_effect`), from
`packetStep_eq` and the dispatcher's two actions; what a step of a running operation can do is `decodeRun_next` and
`encodeRun_next`. The frames follow. -/

namespace Sys2Proof.Machine

/-! ## What a packet row can do -/

/-- Working registers after a packet row: K is as before, and BLK_INDEX too unless the row is RR (R26, R64). -/
def KeepsLoopIndexes (i : Instr) (s : State) (w : Work) : Prop :=
  w.k = s.work.k ∧ ((∀ p n l, i ≠ .rr p n l) → w.blkIndex = s.work.blkIndex)

/-- All that a packet row can do: it appends at most one record to OUT, or raises (R64, R133 to R141, R230). -/
inductive PacketEffect (i : Instr) (s : State) : State → Prop where
  | appended (more : List Packet) (w : Work) (hmore : more.length ≤ 1) (hw : KeepsLoopIndexes i s w) :
      PacketEffect i s { s with out := s.out ++ more, work := w }
  | raised (k : ErrorKind) (c n : Nat) (w : Work) (hw : KeepsLoopIndexes i s w) :
      PacketEffect i s (raiseError k (.inIbuf c n) { s with work := w })

/-- Registers that neither K nor BLK_INDEX is among may take any value. -/
theorem keepsLoopIndexes_framing (i : Instr) (s : State) (cur start idx : Option Nat) (hdr : Option Header)
    (payStart payEnd : Option Nat) :
    KeepsLoopIndexes i s { s.work with
      cur := cur, pktStart := start, pktIndex := idx, hdr := hdr, payStart := payStart, payEnd := payEnd } :=
  ⟨rfl, fun _ => rfl⟩

/-- Counting the packet is the last thing that a packet row does (R141). -/
theorem endPacket_effect (i : Instr) (s t : State) (more : List Packet) (w : Work) (hmore : more.length ≤ 1)
    (hw : KeepsLoopIndexes i s w)
    (e : (endPacket { s with out := s.out ++ more, work := w }).outcome = .next t) : PacketEffect i s t := by
  cases hn : w.pktIndex with
  | none => simp [endPacket, hn] at e
  | some n =>
    simp only [endPacket, hn, need_some, outcome_go] at e
    cases e
    exact .appended more _ hmore hw

/-- DECODE_RR of the trimmed payload appends its record, or raises; it alone writes BLK_INDEX (R26, R134). -/
theorem dispatchRr_effect (p : BitVec 1) (n : BitVec 5) (l : BitVec 16) (h : Header) (s t : State) (c m idx : Nat)
    (hidx : s.work.pktIndex = some idx) (hin : c + 4 + m ≤ s.ibufLen)
    (e : ((dispatchRr (payloadSliced s h c (c + 4 + m))).andThen endPacket).outcome = .next t) :
    PacketEffect (.rr p n l) s t := by
  have hrr {w : Work} (hk : w.k = s.work.k) : KeepsLoopIndexes (.rr p n l) s w := ⟨hk, fun hne => absurd rfl (hne p n l)⟩
  rw [dispatchRr_payloadSliced s h c idx m hidx hin] at e
  cases hd : decodeRr (ibufBytes s (c + 4) m) h.count with
  | none =>
    rw [hd] at e
    cases e
    exact .raised _ _ _ _ (hrr rfl)
  | some r =>
    rw [hd] at e
    refine endPacket_effect _ s t [.receiverReport r] _ (Nat.le_refl 1) ?_ e
    exact hrr rfl

/-- A skip appends nothing, or the Opaque record of the trimmed payload (R135 to R140). -/
theorem skipPacket_effect (i : Instr) (h : Header) (pt : Byte) (s t : State) (c m : Nat) (hin : c + 4 + m ≤ s.ibufLen)
    (e : ((skipPacket pt (payloadSliced s h c (c + 4 + m))).andThen endPacket).outcome = .next t) :
    PacketEffect i s t := by
  rw [skipPacket_payloadSliced s h pt c m hin] at e
  refine endPacket_effect i s t _ _ ?_ (keepsLoopIndexes_framing i s _ _ _ _ _ _) e
  cases s.cfg.policy <;> simp

theorem dispatcher_effect (i : Instr) (h : Header) (s t : State) (c m idx : Nat) (hidx : s.work.pktIndex = some idx)
    (hin : c + 4 + m ≤ s.ibufLen)
    (e : ((dispatcher i h (payloadSliced s h c (c + 4 + m))).andThen endPacket).outcome = .next t) :
    PacketEffect i s t := by
  cases i with
  | rr p n l => exact dispatchRr_effect p n l h s t c m idx hidx hin e
  | _ => exact skipPacket_effect _ h h.pt s t c m hin e

/-- Every branch of `packetStep_eq` raises with the loop indexes kept, or goes to the dispatcher. -/
theorem packetStep_effect (i : Instr) (h : Header) (s t : State) (e : packetStep h (dispatcher i h) s = .next t) :
    PacketEffect i s t := by
  cases hcur : s.work.cur with
  | none =>
    rw [packetStep_noCur h _ s hcur] at e
    cases e
  | some c =>
    cases hidx : s.work.pktIndex with
    | none =>
      rw [packetStep_noPktIndex i h s c hcur hidx] at e
      cases e
    | some n =>
      have raises (k : ErrorKind) (cur start : Option Nat) (hdr : Option Header) (payStart payEnd : Option Nat) :=
        PacketEffect.raised k c n _ (keepsLoopIndexes_framing i s cur start s.work.pktIndex hdr payStart payEnd)
      rw [packetStep_eq h _ s c n hcur hidx] at e
      split at e
      · cases e
        exact raises ..
      split at e
      · cases e
        exact raises ..
      split at e
      · cases e
        exact raises ..
      · cases ht : trimPayload h (ibufBytes s (c + 4) (payloadSize h)) with
        | none =>
          rw [ht] at e
          cases e
          exact raises ..
        | some trimmed =>
          rw [ht] at e
          obtain ⟨hm, -⟩ := trimPayload_ibufBytes s h _ _ _ ht
          exact dispatcher_effect i h s t c trimmed.length n hidx (by omega) e

theorem exec_packet_effect (i : Instr) (h : Header) (s t : State) (hi : i.header = some h) (e : exec i s = .next t) :
    PacketEffect i s t :=
  packetStep_effect i h s t (exec_packet i h s hi ▸ e)

end Sys2Proof.Machine

namespace Sys2Proof.MemoryProofs

open Sys2Proof.Machine Sys2Proof.Statements

/-- Settles O16: neither effect of a packet row touches the fields of the frame. -/
theorem packetFrame : Obligations.PacketFrame := by
  intro i h s t hi e
  cases exec_packet_effect i h s t hi e with
  | appended more w hmore hw =>
    obtain ⟨hk, hblk⟩ := hw
    exact ⟨rfl, rfl, rfl, rfl, fun _ => rfl, fun _ => rfl, fun _ => rfl, rfl, rfl, rfl, rfl, rfl, rfl, rfl, hk, hblk,
      .inl ⟨rfl, rfl, rfl, rfl, more, rfl, hmore⟩⟩
  | raised k c n w hw =>
    obtain ⟨hk, hblk⟩ := hw
    exact ⟨rfl, rfl, rfl, rfl, fun _ => rfl, fun _ => rfl, fun _ => rfl, rfl, rfl, rfl, rfl, rfl, rfl, rfl, hk, hblk,
      .inr ⟨rfl, rfl, rfl, rfl, rfl⟩⟩

/-- Settles O49: a DECODE ends, stores a packet or raises (`decodeRun_next`), and an ENCODE ends or raises
(`encodeRun_next`); each of these writes the operation's own store only. -/
theorem operationsStayInTheirStores : Obligations.OperationsStayInTheirStores := by
  intro s t hrun e
  rw [step_running s hrun.1 hrun.2] at e
  rcases sequencer_next_cmd s t e with hc | hc
  · rw [sequencer_decode s hc] at e
    have notEncode : s.cmd ≠ 2 := by simp [hc]
    obtain ⟨c, -, ⟨-, rfl⟩ | ⟨n, -, ⟨size, recs, hdone, -⟩ | ⟨k, -, w, rfl⟩⟩⟩ := decodeRun_next s t e
    · exact ⟨rfl, rfl, rfl, rfl, fun _ => ⟨rfl, fun _ => rfl⟩, fun h2 => absurd h2 notEncode, fun he => by cases he⟩
    · have noError : s.status ≠ .error := by simp [hrun.1]
      rw [hdone.frame]
      exact ⟨rfl, rfl, rfl, rfl, fun _ => ⟨rfl, fun _ => rfl⟩, fun h2 => absurd h2 notEncode, fun he => absurd he noError⟩
    · exact ⟨rfl, rfl, rfl, rfl, fun _ => ⟨rfl, fun hne => absurd rfl hne⟩, fun h2 => absurd h2 notEncode,
        fun _ => ⟨rfl, rfl⟩⟩
  · rw [sequencer_encode s hc] at e
    have notDecode : s.cmd ≠ 1 := by simp [hc]
    obtain ⟨k, blk, w, rfl⟩ | ⟨acc, w, rfl⟩ := encodeRun_next s t e
    · exact ⟨rfl, rfl, rfl, rfl, fun h1 => absurd h1 notDecode, fun _ => ⟨rfl, fun hne => absurd rfl hne⟩,
        fun _ => ⟨rfl, rfl⟩⟩
    · exact ⟨rfl, rfl, rfl, rfl, fun h1 => absurd h1 notDecode, fun _ => ⟨rfl, fun _ => rfl⟩, fun he => by cases he⟩

end Sys2Proof.MemoryProofs
end

section
/-! PROOFS of the statements of 30_encoding.md. A header row and its header view determine each other
(`Header.toInstr_eq_iff`), and so do the view and its four bytes (`Header.ofBytes_toBytes`); decode and encode follow from the
two. R91's masks keep of a word what a row fixes: its version (`versionMask_iff`), or its version and type
(`typeMask_iff`). -/

namespace Sys2Proof

/-! ## Decode and encode -/

/-- The row a header selects is the one well-formed instruction with that header view (R91, R99). -/
theorem Header.toInstr_eq_iff (h : Header) (i : Instr) :
    h.toInstr = i ↔ i.header = some h ∧ i.wellFormed = true := by
  obtain ⟨hview, hwf, -⟩ := h.toInstr_view
  constructor
  · rintro rfl
    exact ⟨hview, hwf⟩
  · rintro ⟨hi, hw⟩
    exact i.toInstr_of_header h hw hi

theorem encode_of_header (i : Instr) (h : Header) (hi : i.header = some h) : encode i = h.toBytes := by
  simp only [encode, hi]

theorem decode_toBytes (h : Header) (rest : List Byte) : decode (h.toBytes ++ rest) = .ok h.toInstr := by
  obtain ⟨b0, b1, b2, b3, hbytes, hview⟩ := h.ofBytes_toBytes
  simp [hbytes, decode, hview]

theorem decode_encode (i : Instr) (rest : List Byte) (hw : i.wellFormed = true) (hf : i.format = .header) :
    decode (encode i ++ rest) = .ok i := by
  obtain ⟨h, hi⟩ := i.header_of_format hf
  rw [encode_of_header i h hi, decode_toBytes, i.toInstr_of_header h hw hi]

theorem encode_toInstr_ofBytes (b0 b1 b2 b3 : Byte) :
    encode (Header.ofBytes b0 b1 b2 b3).toInstr = [b0, b1, b2, b3] := by
  obtain ⟨hview, -⟩ := (Header.ofBytes b0 b1 b2 b3).toInstr_view
  rw [encode_of_header _ _ hview, Header.toBytes_ofBytes]

/-- A host command is encoded as the byte of a CMD code that decodes to it (R30, R92; log 31). -/
theorem encode_hostCmd (i : Instr) (hf : i.format = .hostCmd) :
    ∃ code : BitVec 2, encode i = [code.setWidth 8] ∧ decodeCmd code = i := by
  cases i with
  | cmdReserved00 => exact ⟨0, rfl, rfl⟩
  | decode => exact ⟨1, rfl, rfl⟩
  | encode => exact ⟨2, rfl, rfl⟩
  | cmdReserved11 => exact ⟨3, rfl, rfl⟩
  | _ => cases hf

/-- A CMD code is read back from the byte that holds it (R30; log 31). -/
theorem decodeAs_hostCmd (code : BitVec 2) : decodeAs .hostCmd [code.setWidth 8] = some (decodeCmd code) := by
  have hlt : code.setWidth 8 < (4 : Byte) := by revert code; decide
  have hback : (code.setWidth 8).setWidth 2 = code := by simp
  rw [decodeAs, if_pos hlt, hback]

/-! ## The masks of R91 -/

theorem bitVec_append_inj {m n : Nat} (a c : BitVec m) (b d : BitVec n) : a ++ b = c ++ d ↔ a = c ∧ b = d := by
  constructor
  · intro e
    exact ⟨by simpa [BitVec.extractLsb'_append_eq_left] using congrArg (BitVec.extractLsb' n m) e,
      by simpa [BitVec.extractLsb'_append_eq_right] using congrArg (BitVec.extractLsb' 0 n) e⟩
  · rintro ⟨rfl, rfl⟩
    rfl

/-- A mask without the length's bits tests the first two bytes only. -/
theorem maskedWord_eq_iff (b0 b1 b2 b3 m0 m1 k0 k1 : Byte) :
    (b0 ++ b1 ++ b2 ++ b3 : BitVec 32) &&& (m0 ++ m1 ++ 0#8 ++ 0#8 : BitVec 32) = (k0 ++ k1 ++ 0#8 ++ 0#8 : BitVec 32) ↔
      b0 &&& m0 = k0 ∧ b1 &&& m1 = k1 := by
  simp only [BitVec.and_append, bitVec_append_inj, BitVec.and_zero, and_true]

/-- The top two bits of the first byte are the version (R81). -/
theorem versionBits_iff : ∀ (b0 : Byte) (v : BitVec 2), b0 &&& 0xC0 = v ++ 0#6 ↔ (b0 >>> 6).setWidth 2 = v := by
  decide +kernel

/-- `W & 0xC0000000` is the version (R91, R99). -/
theorem versionMask_iff (b0 b1 b2 b3 : Byte) (v : BitVec 2) :
    (b0 ++ b1 ++ b2 ++ b3 : BitVec 32) &&& 0xC0000000 = v ++ 0#30 ↔ (Header.ofBytes b0 b1 b2 b3).v = v := by
  have hmask : (0xC0000000 : BitVec 32) = 0xC0#8 ++ 0#8 ++ 0#8 ++ 0#8 := by decide
  have hkey : (v ++ 0#30 : BitVec 32) = (v ++ 0#6 : BitVec 8) ++ 0#8 ++ 0#8 ++ 0#8 := by revert v; decide
  rw [hmask, hkey, maskedWord_eq_iff]
  exact (and_iff_left BitVec.and_zero).trans (versionBits_iff b0 v)

/-- What `W & 0xC0FF0000` is for a version-2 header of type `pt` (R91's match column). -/
def typeKey (pt : Byte) : BitVec 32 := 0x80#8 ++ pt ++ 0#8 ++ 0#8

/-- `W & 0xC0FF0000` is the version and the type (R91). -/
theorem typeMask_iff (b0 b1 b2 b3 pt : Byte) :
    (b0 ++ b1 ++ b2 ++ b3 : BitVec 32) &&& 0xC0FF0000 = typeKey pt ↔
      (Header.ofBytes b0 b1 b2 b3).v = 2 ∧ (Header.ofBytes b0 b1 b2 b3).pt = pt := by
  have hmask : (0xC0FF0000 : BitVec 32) = 0xC0#8 ++ 0xFF#8 ++ 0#8 ++ 0#8 := by decide
  have hones : b1 &&& 0xFF#8 = b1 := BitVec.and_allOnes
  rw [hmask, typeKey, maskedWord_eq_iff, hones]
  exact and_congr_left' (versionBits_iff b0 2)

/-- The types with a row of their own, as a list (R91). -/
def namedTypes : List Byte :=
  [Config.ptSr, Config.ptRr, Config.ptSdes, Config.ptBye, Config.ptRtpfb, Config.ptPsfb]

theorem isNamedType_eq_false_iff (pt : Byte) : isNamedType pt = false ↔ pt ∉ namedTypes := by
  simp [isNamedType, namedTypes, and_assoc]

/-- UNKNOWN's words have version 2 and none of the six keys (R91). -/
theorem unknownMask_iff (b0 b1 b2 b3 : Byte) :
    (b0 ++ b1 ++ b2 ++ b3 : BitVec 32) &&& 0xC0000000 = 0x80000000 ∧
      (b0 ++ b1 ++ b2 ++ b3 : BitVec 32) &&& 0xC0FF0000 ∉ namedTypes.map typeKey ↔
    (Header.ofBytes b0 b1 b2 b3).v = 2 ∧ isNamedType (Header.ofBytes b0 b1 b2 b3).pt = false := by
  have hkeys : (b0 ++ b1 ++ b2 ++ b3 : BitVec 32) &&& 0xC0FF0000 ∈ namedTypes.map typeKey ↔
      (Header.ofBytes b0 b1 b2 b3).v = 2 ∧ (Header.ofBytes b0 b1 b2 b3).pt ∈ namedTypes := by
    simp only [List.mem_map, eq_comm (a := typeKey _), typeMask_iff]
    simp [and_comm]
  rw [hkeys, isNamedType_eq_false_iff]
  exact (and_congr_left' (versionMask_iff b0 b1 b2 b3 2)).trans (and_congr_right fun hv => by simp [hv])

/-! ## What selects each row -/

/-- The row of a named type is selected by version 2 and that type (R91). -/
theorem namedRow_iff (row : BitVec 1 → BitVec 5 → BitVec 16 → Instr) (pt : Byte)
    (hrow : ∀ p n l, (row p n l).header = some ⟨Config.version, p, n, pt, l⟩ ∧ (row p n l).wellFormed = true) (h : Header) :
    (∃ p n l, h.toInstr = row p n l) ↔ h.v = 2 ∧ h.pt = pt := by
  obtain ⟨v, p, n, t, l⟩ := h
  simp only [Header.toInstr_eq_iff, hrow, Option.some.injEq, Header.mk.injEq]
  constructor
  · rintro ⟨_, _, _, ⟨hv, -, -, ht, -⟩, -⟩
    exact ⟨hv.symm, ht.symm⟩
  · rintro ⟨hv, ht⟩
    exact ⟨p, n, l, ⟨hv.symm, rfl, rfl, ht.symm, rfl⟩, trivial⟩

/-- The row of an illegal version is selected by that version (R99). -/
theorem illegalRow_iff (row : BitVec 1 → BitVec 5 → Byte → BitVec 16 → Instr) (v : BitVec 2)
    (hrow : ∀ p n t l, (row p n t l).header = some ⟨v, p, n, t, l⟩ ∧ (row p n t l).wellFormed = true) (h : Header) :
    (∃ p n t l, h.toInstr = row p n t l) ↔ h.v = v := by
  obtain ⟨v', p, n, t, l⟩ := h
  simp only [Header.toInstr_eq_iff, hrow, Option.some.injEq, Header.mk.injEq]
  constructor
  · rintro ⟨_, _, _, _, ⟨hv, -⟩, -⟩
    exact hv.symm
  · rintro hv
    exact ⟨p, n, t, l, ⟨hv.symm, rfl, rfl, rfl, rfl⟩, trivial⟩

/-- UNKNOWN is selected by version 2 and a type without a row of its own (R91, R140). -/
theorem unknownRow_iff (h : Header) :
    (∃ p n t l, h.toInstr = .unknown p n t l) ↔ h.v = 2 ∧ isNamedType h.pt = false := by
  obtain ⟨v, p, n, t, l⟩ := h
  simp only [Header.toInstr_eq_iff, Instr.header, Instr.wellFormed, Option.some.injEq, Header.mk.injEq,
    Bool.not_eq_true']
  constructor
  · rintro ⟨_, _, _, _, ⟨hv, -, -, rfl, -⟩, hn⟩
    exact ⟨hv.symm, hn⟩
  · rintro ⟨hv, hn⟩
    exact ⟨p, n, t, l, ⟨hv.symm, rfl, rfl, rfl, rfl⟩, hn⟩

/-- The word of a header has a type's key exactly if it selects the row of that type (R91). -/
theorem namedRow_selected (b0 b1 b2 b3 pt : Byte) (row : BitVec 1 → BitVec 5 → BitVec 16 → Instr)
    (hrow : ∀ p n l, (row p n l).header = some ⟨Config.version, p, n, pt, l⟩ ∧ (row p n l).wellFormed = true) :
    (b0 ++ b1 ++ b2 ++ b3 : BitVec 32) &&& 0xC0FF0000 = typeKey pt ↔
      ∃ p n l, (Header.ofBytes b0 b1 b2 b3).toInstr = row p n l :=
  (typeMask_iff b0 b1 b2 b3 pt).trans (namedRow_iff row pt hrow _).symm

/-- The word of a header has an illegal version exactly if it selects the row of that version (R99). -/
theorem illegalRow_selected (b0 b1 b2 b3 : Byte) (v : BitVec 2) (row : BitVec 1 → BitVec 5 → Byte → BitVec 16 → Instr)
    (hrow : ∀ p n t l, (row p n t l).header = some ⟨v, p, n, t, l⟩ ∧ (row p n t l).wellFormed = true) :
    (b0 ++ b1 ++ b2 ++ b3 : BitVec 32) &&& 0xC0000000 = v ++ 0#30 ↔
      ∃ p n t l, (Header.ofBytes b0 b1 b2 b3).toInstr = row p n t l :=
  (versionMask_iff b0 b1 b2 b3 v).trans (illegalRow_iff row v hrow _).symm

end Sys2Proof

namespace Sys2Proof.EncodingProofs

/-- Settles O1: `decode_encode` for a packet row; a host command is encoded as its CMD code, which `decodeAs` reads back. -/
theorem decodeOfEncodeIsTheInstruction : Obligations.DecodeOfEncodeIsTheInstruction := by
  refine ⟨decode_encode, fun i _ hf => ?_⟩
  obtain ⟨code, hencode, hdecode⟩ := encode_hostCmd i hf
  rw [hencode, decodeAs_hostCmd, hdecode]

/-- Settles O2: the instruction is the row that the header view of the four bytes selects. It is unique, since decode gives
back any other that has the same bytes; its row is the one whose fixed bits the masks find. -/
theorem everyHeaderWordIsExactlyOneRow : Obligations.EveryHeaderWordIsExactlyOneRow := by
  intro b0 b1 b2 b3
  have hdecode : decode [b0, b1, b2, b3] = .ok (Header.ofBytes b0 b1 b2 b3).toInstr := rfl
  constructor
  · obtain ⟨-, hwf, hformat⟩ := (Header.ofBytes b0 b1 b2 b3).toInstr_view
    refine ⟨_, hdecode, hwf, hformat, encode_toInstr_ofBytes b0 b1 b2 b3, fun j hj hf hencode => ?_⟩
    have hjdecode := decode_encode j [] hj hf
    rw [List.append_nil, hencode, hdecode] at hjdecode
    exact (Except.ok.inj hjdecode).symm
  · intro i hi
    obtain rfl := Except.ok.inj (hdecode.symm.trans hi)
    have named := namedRow_selected b0 b1 b2 b3
    have illegal := illegalRow_selected b0 b1 b2 b3
    exact ⟨named 200 .sr fun _ _ _ => ⟨rfl, rfl⟩, named 201 .rr fun _ _ _ => ⟨rfl, rfl⟩,
      named 202 .sdes fun _ _ _ => ⟨rfl, rfl⟩, named 203 .bye fun _ _ _ => ⟨rfl, rfl⟩,
      named 205 .rtpfb fun _ _ _ => ⟨rfl, rfl⟩, named 206 .psfb fun _ _ _ => ⟨rfl, rfl⟩,
      illegal 0 .illegalV0 fun _ _ _ _ => ⟨rfl, rfl⟩, illegal 1 .illegalV1 fun _ _ _ _ => ⟨rfl, rfl⟩,
      illegal 3 .illegalV3 fun _ _ _ _ => ⟨rfl, rfl⟩,
      (unknownMask_iff b0 b1 b2 b3).trans (unknownRow_iff _).symm⟩

/-- Settles O4, by evaluating the decoder at the ten words. -/
theorem sampleWordsDecode : Obligations.SampleWordsDecode :=
  ⟨rfl, rfl, rfl, rfl, rfl, rfl, rfl, rfl, rfl, rfl⟩

end Sys2Proof.EncodingProofs
end

section
/-! PROOFS of the statements of 40_compound_reader.md. One packet: `trimPayload_padded` says what the stripper leaves of a
payload, `packetStep_untrimmed` and `packetStep_trimmed` what the packet step then does, and `dispatcher_framed` what every
dispatcher leaves of the working registers. The whole buffer: its front is a framed packet or fails framing
(`onePacket_cases`), so an argument about DECODE as a function is an induction over its packets (`framed_induction`) with the
rules of the loop `decodeFrom`; the laws of R144 are inductions of this form. -/

namespace Sys2Proof.Machine

open Sys2Proof.Statements

/-! ## The step of a running DECODE -/

/-- The loop head of R120, whether the host waits or asks nothing. -/
theorem step_running_decode (s : State) (c : Nat) (hrun : Running s) (hcmd : s.cmd = 1) (hc : s.work.cur = some c) :
    step s = if c < s.ibufLen then fetchPacket c s else .next (finishDecode s) := by
  obtain ⟨hbusy, hwaits⟩ := hrun
  rw [step_running s hbusy hwaits, sequencer_decode s hcmd]
  simp only [decodeRun, hc]

/-- The header at CUR (R124). -/
def headerAt (s : State) (c : Nat) : Header :=
  Header.ofBytes (ibufByte s c) (ibufByte s (c + 1)) (ibufByte s (c + 2)) (ibufByte s (c + 3))

theorem decode_headerAt (s : State) (c : Nat) : decode (ibufBytes s c 4) = .ok (headerAt s c).toInstr := by
  rw [ibufBytes_four]
  rfl

/-- Where four bytes remain, a step is exec of the row of the header at CUR (R124, R133). -/
theorem step_atPacket (s : State) (c n : Nat) (hrun : Running s) (hcmd : s.cmd = 1) (hat : AtPacket s c n) :
    step s = exec (headerAt s c).toInstr s := by
  obtain ⟨hc, -, h4⟩ := hat
  rw [step_running_decode s c hrun hcmd hc, if_pos (by omega), fetchPacket_header s c (headerAt s c) h4 rfl,
    exec_packet _ _ s (headerAt s c).toInstr_view.1]

/-- R124's extraction, as numbers. -/
theorem headerAt_fields (s : State) (c : Nat) :
    (headerAt s c).v.toNat = (ibufByte s c).toNat / 64 ∧
    (headerAt s c).p.toNat = (ibufByte s c).toNat / 32 % 2 ∧
    (headerAt s c).count.toNat = (ibufByte s c).toNat % 32 ∧
    (headerAt s c).pt = ibufByte s (c + 1) ∧
    (headerAt s c).length.toNat = (ibufByte s (c + 2)).toNat * 256 + (ibufByte s (c + 3)).toNat := by
  have hmod (x : Nat) : x &&& 31 = x % 32 := Nat.and_two_pow_sub_one_eq_mod x 5
  refine ⟨?_, ?_, ?_, rfl, be16_toNat _ _⟩
  · simp [headerAt, Header.ofBytes, Nat.shiftRight_eq_div_pow]
    omega
  · simp [headerAt, Header.ofBytes, Nat.shiftRight_eq_div_pow, Nat.and_one_is_mod]
  · simp [headerAt, Header.ofBytes, hmod]

/-! ## The padding stripper -/

theorem paddingFlag_iff (h : Header) : paddingFlag h = true ↔ h.p = 1 := by
  simp [paddingFlag]

/-- Without padding the payload stays whole (R129). -/
theorem trimPayload_plain (h : Header) (payload : List Byte) (hp : h.p = 0) : trimPayload h payload = some payload := by
  simp [trimPayload, paddingFlag, hp]

/-- With padding the last byte of a slice says how much is dropped, and an empty slice has none (R130, R131). -/
theorem trimPayload_padded (s : State) (h : Header) (a size p : Nat) (hp : h.p = 1)
    (hlast : p = (ibufByte s (a + size - 1)).toNat) :
    trimPayload h (ibufBytes s a size) = if 0 < p ∧ p ≤ size then some (ibufBytes s a (size - p)) else none := by
  unfold trimPayload
  rw [if_pos ((paddingFlag_iff h).mpr hp)]
  cases size with
  | zero =>
    rw [ibufBytes_zero, if_neg (by omega)]
    rfl
  | succ m =>
    have hget : (ibufBytes s a (m + 1)).getLast? = some (ibufByte s (a + m)) := by
      rw [ibufBytes_add, ibufBytes_one]
      simp
    have hbyte : (ibufByte s (a + m)).toNat = p := hlast.symm
    simp only [hget, hbyte, ibufBytes_length, ibufBytes_take s a (m + 1) (m + 1 - p) (Nat.sub_le _ _)]

/-- A payload that is legal and `m` bytes long once trimmed is trimmed to those bytes (R129 to R131). -/
theorem trimPayload_trimmedTo (s : State) (h : Header) (c m : Nat) (ht : TrimmedTo s h c m) :
    m ≤ payloadSize h ∧ trimPayload h (ibufBytes s (c + 4) (payloadSize h)) = some (ibufBytes s (c + 4) m) := by
  rw [payloadSize_eq]
  obtain ⟨hp, rfl⟩ | ⟨hp, p, hpos, hle, hlast, rfl⟩ := ht
  · exact ⟨Nat.le_refl _, trimPayload_plain h _ hp⟩
  · refine ⟨Nat.sub_le _ _, ?_⟩
    rw [trimPayload_padded s h _ _ p hp hlast.symm, if_pos ⟨hpos, hle⟩]

/-! ## The packet step at a whole payload -/

theorem payloadInside_iff (s : State) (h : Header) (c : Nat) :
    PayloadInside s h c ↔ h.v = 2 ∧ c + 4 + payloadSize h ≤ s.ibufLen := by
  rw [payloadSize_eq, PayloadInside]

/-- A payload that the stripper rejects raises InvalidPadding (R130). -/
theorem packetStep_untrimmed (h : Header) (dispatch : State → SubStep) (s : State) (c n : Nat) (hat : AtPacket s c n)
    (hin : PayloadInside s h c) (ht : trimPayload h (ibufBytes s (c + 4) (payloadSize h)) = none) :
    packetStep h dispatch s =
      .next (raiseError .invalidPadding (.inIbuf c n) (payloadSliced s h c (c + 4 + payloadSize h))) := by
  obtain ⟨hc, hn, h4⟩ := hat
  obtain ⟨hv, hl⟩ := (payloadInside_iff s h c).mp hin
  rw [packetStep_eq h dispatch s c n hc hn, if_neg (by omega), if_neg (by simpa using hv), if_neg (by omega), ht]

/-- A payload that the stripper trims to `m` bytes reaches the dispatcher (R131, R133). -/
theorem packetStep_trimmed (h : Header) (dispatch : State → SubStep) (s : State) (c n m : Nat) (hat : AtPacket s c n)
    (hin : PayloadInside s h c)
    (ht : trimPayload h (ibufBytes s (c + 4) (payloadSize h)) = some (ibufBytes s (c + 4) m)) :
    packetStep h dispatch s = ((dispatch (payloadSliced s h c (c + 4 + m))).andThen endPacket).outcome := by
  obtain ⟨hc, hn, h4⟩ := hat
  obtain ⟨hv, hl⟩ := (payloadInside_iff s h c).mp hin
  rw [packetStep_eq h dispatch s c n hc hn, if_neg (by omega), if_neg (by simpa using hv), if_neg (by omega), ht]
  simp only [ibufBytes_length]

/-! ## The dispatcher and the end of the packet step -/

/-- The state after a packet step that does not raise: the payload was trimmed to `m` bytes and `recs` appended
(R126 to R141). -/
def packetCompleted (s : State) (h : Header) (c n m : Nat) (recs : List Packet) (blk : Option (BitVec 5)) : State :=
  { s with
    out := s.out ++ recs
    work := { s.work with
      pktStart := some c, hdr := some h, payStart := some (c + 4), payEnd := some (c + 4 + m),
      cur := some (c + 4 + payloadSize h), pktIndex := some (n + 1), blkIndex := blk } }

theorem endPacket_counts (s : State) (n : Nat) (hn : s.work.pktIndex = some n) :
    endPacket s = .go { s with work := { s.work with pktIndex := some (n + 1) } } := by
  rw [endPacket, hn, need_some]

/-- What a packet whose type is not 201 appends (R135 to R140). -/
def skippedRecords (policy : Config.Policy) (pt : Byte) (payload : List Byte) : List Packet :=
  match policy with
  | .drop => []
  | .keepOpaque => [.opaqueRecord pt payload]

theorem skipPacket_completes (s : State) (h : Header) (pt : Byte) (c n m : Nat) (hn : s.work.pktIndex = some n)
    (hl : c + 4 + m ≤ s.ibufLen) :
    ((skipPacket pt (payloadSliced s h c (c + 4 + m))).andThen endPacket).outcome =
      .next (packetCompleted s h c n m (skippedRecords s.cfg.policy pt (ibufBytes s (c + 4) m)) s.work.blkIndex) := by
  rw [skipPacket_payloadSliced s h pt c m hl, andThen_go]
  exact congrArg SubStep.outcome (endPacket_counts _ n (by exact hn))

theorem dispatchRr_completes (s : State) (h : Header) (c n m : Nat) (r : ReceiverReport)
    (hn : s.work.pktIndex = some n) (hl : c + 4 + m ≤ s.ibufLen)
    (hr : decodeRr (ibufBytes s (c + 4) m) h.count = some r) :
    ((dispatchRr (payloadSliced s h c (c + 4 + m))).andThen endPacket).outcome =
      .next (packetCompleted s h c n m [.receiverReport r] (blkAfter s.work.blkIndex h.count.toNat)) := by
  rw [dispatchRr_payloadSliced s h c n m hn hl, hr]
  exact congrArg SubStep.outcome (endPacket_counts _ n (by exact hn))

theorem dispatchRr_raises (s : State) (h : Header) (c n m : Nat) (hn : s.work.pktIndex = some n)
    (hl : c + 4 + m ≤ s.ibufLen) (hr : decodeRr (ibufBytes s (c + 4) m) h.count = none) :
    ((dispatchRr (payloadSliced s h c (c + 4 + m))).andThen endPacket).outcome =
      .next (raiseError .invalidReceiverReportLength (.inIbuf c n) (payloadSliced s h c (c + 4 + m))) := by
  rw [dispatchRr_payloadSliced s h c n m hn hl, hr]
  rfl

/-- What every dispatcher leaves of the registers that framing has set, and the one error that it can raise
(R133 to R141, R225). -/
structure PacketFramed (s t : State) (h : Header) (c m : Nat) : Prop where
  pktStart : t.work.pktStart = some c
  hdr : t.work.hdr = some h
  payStart : t.work.payStart = some (c + 4)
  payEnd : t.work.payEnd = some (c + 4 + m)
  cur : t.work.cur = some (c + 4 + payloadSize h)
  err : t.err = s.err ∨ t.err.kind = some .invalidReceiverReportLength

theorem packetCompleted_framed (s : State) (h : Header) (c n m : Nat) (recs : List Packet) (blk : Option (BitVec 5)) :
    PacketFramed s (packetCompleted s h c n m recs blk) h c m :=
  ⟨rfl, rfl, rfl, rfl, rfl, .inl rfl⟩

theorem dispatcher_framed (i : Instr) (h : Header) (s : State) (c n m : Nat) (hn : s.work.pktIndex = some n)
    (hl : c + 4 + m ≤ s.ibufLen) :
    ∃ t, ((dispatcher i h (payloadSliced s h c (c + 4 + m))).andThen endPacket).outcome = .next t ∧
      PacketFramed s t h c m := by
  cases i with
  | rr =>
    cases hr : decodeRr (ibufBytes s (c + 4) m) h.count with
    | none => exact ⟨_, dispatchRr_raises s h c n m hn hl hr, rfl, rfl, rfl, rfl, rfl, .inr rfl⟩
    | some r => exact ⟨_, dispatchRr_completes s h c n m r hn hl hr, packetCompleted_framed ..⟩
  | _ => exact ⟨_, skipPacket_completes s h h.pt c n m hn hl, packetCompleted_framed ..⟩

/-- Whatever the payload, a packet row with four bytes left leaves its header in HDR.* (R124). -/
theorem exec_latches (i : Instr) (h : Header) (s : State) (c n : Nat) (hi : i.header = some h) (hat : AtPacket s c n) :
    ∃ t, exec i s = .next t ∧ t.work.hdr = some h := by
  obtain ⟨hc, hn, h4⟩ := hat
  rw [exec_packet i h s hi, packetStep_eq h _ s c n hc hn, if_neg (by omega)]
  split
  · exact ⟨_, rfl, rfl⟩
  split
  · exact ⟨_, rfl, rfl⟩
  cases ht : trimPayload h (ibufBytes s (c + 4) (payloadSize h)) with
  | none => exact ⟨_, rfl, rfl⟩
  | some trimmed =>
    obtain ⟨hm, -⟩ := trimPayload_ibufBytes s h _ _ _ ht
    obtain ⟨t, hstep, hframed⟩ := dispatcher_framed i h s c n trimmed.length hn (by omega)
    exact ⟨t, hstep, hframed.hdr⟩

/-- Only RR is decoded (R135 to R140). -/
theorem dispatcher_skipped (i : Instr) (h : Header) (hi : Skipped i) : dispatcher i h = skipPacket h.pt := by
  cases i with
  | rr => exact hi.elim
  | _ => rfl

/-! ## The Receiver Report in IBUF -/

theorem slice_ibufBytes (s : State) (a n k l : Nat) (h : k + l ≤ n) :
    slice (ibufBytes s a n) k l = ibufBytes s (a + k) l := by
  rw [slice, ibufBytes_drop, ibufBytes_take _ _ _ _ (by omega)]

/-- `be_u32` of four bytes (R12). -/
theorem beU32_eq_word32 (b0 b1 b2 b3 : Byte) : beU32 [b0, b1, b2, b3] = word32 b0 b1 b2 b3 := by
  have hvalue : beNat [b0, b1, b2, b3] = b0.toNat * 16777216 + b1.toNat * 65536 + b2.toNat * 256 + b3.toNat := by
    simp only [beNat, List.foldl_cons, List.foldl_nil]
    omega
  rw [beU32, hvalue, word32]

theorem beU32_ibufBytes (s : State) (a : Nat) : beU32 (ibufBytes s a 4) = ibufWord s a := by
  rw [ibufBytes_four, beU32_eq_word32, ibufWord]

/-- DECODE_BLOCK of 24 bytes of IBUF (R88, R191). -/
theorem decodeBlock_ibufBytes (s : State) (a : Nat) : decodeBlock (ibufBytes s a 24) = ibufBlock s a := by
  have hword (k : Nat) (hk : k + 4 ≤ 24) : beU32 (slice (ibufBytes s a 24) k 4) = ibufWord s (a + k) := by
    rw [slice_ibufBytes s a 24 k 4 hk, beU32_ibufBytes]
  have hfraction : beU8 (slice (ibufBytes s a 24) 4 1) = ibufByte s (a + 4) := by
    rw [slice_ibufBytes s a 24 4 1 (by omega), ibufBytes_one]
    simp [beU8, beNat]
  have hlost : sext24 (slice (ibufBytes s a 24) 5 3) =
      signed24 (ibufByte s (a + 5)) (ibufByte s (a + 6)) (ibufByte s (a + 7)) := by
    rw [slice_ibufBytes s a 24 5 3 (by omega), ← sext24_eq_signed24]
    rfl
  simp only [decodeBlock, ibufBlock, hfraction, hlost, hword _ (show 0 + 4 ≤ 24 by omega), hword 8 (by omega),
    hword 12 (by omega), hword 16 (by omega), hword 20 (by omega), Nat.add_zero]

/-- DECODE_RR of a body of the right size in IBUF (R161, R162). -/
theorem decodeRr_ibufBytes (s : State) (a m : Nat) (count : BitVec 5) (hm : m = 4 + 24 * count.toNat) :
    decodeRr (ibufBytes s a m) count = some
      { senderSsrc := ibufWord s a
        reports := (List.range count.toNat).map fun j => ibufBlock s (a + 4 + 24 * j) } := by
  have hsender : beU32 (slice (ibufBytes s a m) 0 4) = ibufWord s a := by
    rw [slice_ibufBytes s a m 0 4 (by omega), beU32_ibufBytes, Nat.add_zero]
  have hblock (j : Nat) (hj : j < count.toNat) :
      decodeBlock (slice (ibufBytes s a m) (4 + 24 * j) 24) = ibufBlock s (a + 4 + 24 * j) := by
    rw [slice_ibufBytes s a m _ 24 (by omega), decodeBlock_ibufBytes, Nat.add_assoc]
  unfold decodeRr
  rw [if_pos (by simpa [rrBodySize] using hm), hsender]
  simp only [Config.blockBytes, Option.some.injEq, ReceiverReport.mk.injEq, true_and]
  exact List.map_congr_left fun j hj => hblock j (List.mem_range.mp hj)

/-! ## The function's result -/

theorem decodeResultIs_ended (r : Except DecodeError (List Packet)) (t : State) (h : DecodeResultIs r t) :
    t.status = .done ∨ t.status = .error := by
  cases r with
  | ok ps => exact .inl h.1
  | error e => exact .inr h.1

/-! ## The front of a buffer -/

/-- A buffer that begins with a packet which passes every check of framing: header, payload, and what the stripper leaves of
the payload (R123 to R131). -/
def FramedPacket (bs : List Byte) (h : Header) (trimmed rest : List Byte) : Prop :=
  h.v = 2 ∧ ∃ payload, bs = h.toBytes ++ payload ++ rest ∧ payload.length = payloadSize h ∧
    trimPayload h payload = some trimmed

/-- A framed packet appends what `packetRecords` says, and its last byte is where the next packet begins (R133). -/
theorem FramedPacket.onePacket_eq {bs trimmed rest : List Byte} {h : Header} (hf : FramedPacket bs h trimmed rest)
    (policy : Config.Policy) : onePacket policy bs = (packetRecords policy h trimmed).map (·, rest) := by
  obtain ⟨hv, payload, rfl, hlen, htrim⟩ := hf
  obtain ⟨b0, b1, b2, b3, hbytes, hview⟩ := h.ofBytes_toBytes
  have htake : (payload ++ rest).take (payloadSize h) = payload := by rw [← hlen, List.take_left]
  have hdrop : (payload ++ rest).drop (payloadSize h) = rest := by rw [← hlen, List.drop_left]
  have henough : ¬ (payload ++ rest).length < payloadSize h := by
    rw [List.length_append]
    omega
  rw [hbytes]
  simp only [List.cons_append, List.nil_append, onePacket, hview, Config.version, if_neg (not_not.mpr hv),
    if_neg henough, htake, hdrop, htrim]
  cases packetRecords policy h trimmed <;> rfl

theorem FramedPacket.length_eq {bs trimmed rest : List Byte} {h : Header} (hf : FramedPacket bs h trimmed rest) :
    bs.length = 4 + payloadSize h + rest.length := by
  obtain ⟨-, payload, rfl, hlen, -⟩ := hf
  simp [Header.toBytes, hlen]
  omega

theorem FramedPacket.ne_nil {bs trimmed rest : List Byte} {h : Header} (hf : FramedPacket bs h trimmed rest) :
    bs ≠ [] := by
  have hlen := hf.length_eq
  exact List.length_pos_iff.mp (by omega)

theorem FramedPacket.trimmed_le {bs trimmed rest : List Byte} {h : Header} (hf : FramedPacket bs h trimmed rest) :
    trimmed.length ≤ payloadSize h := by
  obtain ⟨-, payload, -, hlen, htrim⟩ := hf
  exact hlen ▸ (trimPayload_prefix h payload trimmed htrim).1

/-- What follows a packet does not bear on its framing. -/
theorem FramedPacket.append {bs trimmed rest : List Byte} {h : Header} (hf : FramedPacket bs h trimmed rest)
    (more : List Byte) : FramedPacket (bs ++ more) h trimmed (rest ++ more) := by
  obtain ⟨hv, payload, rfl, hlen, htrim⟩ := hf
  exact ⟨hv, payload, List.append_assoc _ _ _, hlen, htrim⟩

/-- A buffer begins with a framed packet, or fails framing whatever the policy (R229). -/
theorem onePacket_cases (bs : List Byte) :
    (∃ k, ∀ policy, onePacket policy bs = .error k) ∨ ∃ h trimmed rest, FramedPacket bs h trimmed rest := by
  match bs with
  | [] | [_] | [_, _] | [_, _, _] => exact .inl ⟨.truncated, fun _ => rfl⟩
  | b0 :: b1 :: b2 :: b3 :: bytes =>
    obtain ⟨h, hh⟩ : ∃ h, h = Header.ofBytes b0 b1 b2 b3 := ⟨_, rfl⟩
    simp only [onePacket, ← hh, Config.version]
    by_cases hv : h.v = 2
    · by_cases hl : bytes.length < payloadSize h
      · exact .inl ⟨.truncated, fun _ => by rw [if_neg (not_not.mpr hv), if_pos hl]⟩
      cases ht : trimPayload h (bytes.take (payloadSize h)) with
      | none => exact .inl ⟨.invalidPadding, fun _ => by rw [if_neg (not_not.mpr hv), if_neg hl]⟩
      | some trimmed =>
        refine .inr ⟨h, trimmed, bytes.drop (payloadSize h), hv, bytes.take (payloadSize h), ?_, ?_, ht⟩
        · rw [hh, Header.toBytes_ofBytes, List.append_assoc, List.take_append_drop]
          rfl
        · rw [List.length_take]
          omega
    · exact .inl ⟨.invalidVersion, fun _ => by rw [if_pos hv]⟩

/-- Induction over the packets of a buffer: it is empty, or its front fails framing, or it is a framed packet and a buffer. -/
theorem framed_induction {P : List Byte → Prop} (nil : P [])
    (unframed : ∀ bs k, bs ≠ [] → (∀ policy, onePacket policy bs = .error k) → P bs)
    (packet : ∀ bs h trimmed rest, FramedPacket bs h trimmed rest → P rest → P bs) (bs : List Byte) : P bs := by
  induction hn : bs.length using Nat.strongRecOn generalizing bs with
  | ind n ih =>
    by_cases hbs : bs = []
    · exact hbs ▸ nil
    obtain ⟨k, hk⟩ | ⟨h, trimmed, rest, hf⟩ := onePacket_cases bs
    · exact unframed bs k hbs hk
    · have hlen := hf.length_eq
      exact packet bs h trimmed rest hf (ih rest.length (by omega) rest rfl)

/-! ## The loop of DECODE without its bound -/

/-- A bound that admits a buffer with a byte left admits one more packet. -/
theorem exists_eq_succ_of_length_le {bs : List Byte} (hbs : bs ≠ []) {fuel : Nat} (h : bs.length ≤ fuel) :
    ∃ f, fuel = f + 1 :=
  Nat.exists_eq_add_one.mpr ((List.length_pos_iff.mpr hbs).trans_le h)

/-- Two bounds on the number of packets, neither below the buffer's length, give the same result (R143). -/
theorem scan_fuel (policy : Config.Policy) (bs : List Byte) (fuel fuel' offset pkt : Nat) (hfuel : bs.length ≤ fuel)
    (hfuel' : bs.length ≤ fuel') : scan policy fuel offset pkt bs = scan policy fuel' offset pkt bs := by
  induction bs using framed_induction generalizing fuel fuel' offset pkt with
  | nil => rw [scan_nil, scan_nil]
  | unframed bs k hbs hk =>
    obtain ⟨f, rfl⟩ := exists_eq_succ_of_length_le hbs hfuel
    obtain ⟨f', rfl⟩ := exists_eq_succ_of_length_le hbs hfuel'
    rw [scan_error policy f offset pkt bs k hbs (hk policy), scan_error policy f' offset pkt bs k hbs (hk policy)]
  | packet bs h trimmed rest hf ih =>
    obtain ⟨f, rfl⟩ := exists_eq_succ_of_length_le hf.ne_nil hfuel
    obtain ⟨f', rfl⟩ := exists_eq_succ_of_length_le hf.ne_nil hfuel'
    have hlen := hf.length_eq
    have hone := hf.onePacket_eq policy
    cases hr : packetRecords policy h trimmed with
    | error k =>
      rw [hr] at hone
      rw [scan_error policy f offset pkt bs k hf.ne_nil hone, scan_error policy f' offset pkt bs k hf.ne_nil hone]
    | ok recs =>
      rw [hr] at hone
      rw [scan_ok policy f offset pkt bs rest recs hf.ne_nil hone,
        scan_ok policy f' offset pkt bs rest recs hf.ne_nil hone, ih f f' _ _ (by omega) (by omega)]

/-- The loop of R120 from an offset and a packet index on, with the buffer's length as the bound (R143). -/
def decodeFrom (policy : Config.Policy) (offset pkt : Nat) (bs : List Byte) : Except DecodeError (List Packet) :=
  scan policy bs.length offset pkt bs

theorem scan_eq_decodeFrom (policy : Config.Policy) (bs : List Byte) (fuel offset pkt : Nat) (h : bs.length ≤ fuel) :
    scan policy fuel offset pkt bs = decodeFrom policy offset pkt bs :=
  scan_fuel policy bs fuel bs.length offset pkt h (Nat.le_refl _)

theorem decodeFunction_eq (policy : Config.Policy) (bs : List Byte) :
    decodeFunction policy bs = decodeFrom policy 0 0 bs := rfl

/-- The first packet that raises ends the loop (R120, R230). -/
theorem decodeFrom_error (policy : Config.Policy) (offset pkt : Nat) (bs : List Byte) (k : ErrorKind) (hbs : bs ≠ [])
    (hk : onePacket policy bs = .error k) :
    decodeFrom policy offset pkt bs = .error { kind := k, offset := offset, pkt := pkt } := by
  rw [← scan_eq_decodeFrom policy bs (bs.length + 1) offset pkt (Nat.le_succ _),
    scan_error policy _ offset pkt bs k hbs hk]

theorem FramedPacket.decodeFrom_error {bs trimmed rest : List Byte} {h : Header} (hf : FramedPacket bs h trimmed rest)
    {policy : Config.Policy} {k : ErrorKind} (hr : packetRecords policy h trimmed = .error k) (offset pkt : Nat) :
    decodeFrom policy offset pkt bs = .error { kind := k, offset := offset, pkt := pkt } :=
  Machine.decodeFrom_error policy offset pkt bs k hf.ne_nil (by rw [hf.onePacket_eq, hr]; rfl)

/-- After a packet that completes, the loop goes on past it (R120, R141). -/
theorem FramedPacket.decodeFrom_ok {bs trimmed rest : List Byte} {h : Header} (hf : FramedPacket bs h trimmed rest)
    {policy : Config.Policy} {recs : List Packet} (hr : packetRecords policy h trimmed = .ok recs) (offset pkt : Nat) :
    decodeFrom policy offset pkt bs =
      (decodeFrom policy (offset + (4 + payloadSize h)) (pkt + 1) rest).map (recs ++ ·) := by
  have hlen := hf.length_eq
  have hone : onePacket policy bs = .ok (recs, rest) := by rw [hf.onePacket_eq, hr]; rfl
  rw [← scan_eq_decodeFrom policy bs (bs.length + 1) offset pkt (Nat.le_succ _),
    scan_ok policy _ offset pkt bs rest recs hf.ne_nil hone, scan_eq_decodeFrom policy rest _ _ _ (by omega),
    show bs.length - rest.length = 4 + payloadSize h by omega]

/-- A buffer that decodes and begins with a framed packet: the packet's records, and those of the rest. -/
theorem FramedPacket.decodeFrom_eq_ok {bs trimmed rest : List Byte} {h : Header} (hf : FramedPacket bs h trimmed rest)
    {policy : Config.Policy} {offset pkt : Nat} {ps : List Packet} (hd : decodeFrom policy offset pkt bs = .ok ps) :
    ∃ recs more, packetRecords policy h trimmed = .ok recs ∧
      decodeFrom policy (offset + (4 + payloadSize h)) (pkt + 1) rest = .ok more ∧ ps = recs ++ more := by
  cases hr : packetRecords policy h trimmed with
  | error k => simp [hf.decodeFrom_error hr] at hd
  | ok recs =>
    rw [hf.decodeFrom_ok hr] at hd
    cases hm : decodeFrom policy (offset + (4 + payloadSize h)) (pkt + 1) rest with
    | error e =>
      rw [hm] at hd
      cases hd
    | ok more =>
      rw [hm] at hd
      cases hd
      exact ⟨recs, more, rfl, rfl, rfl⟩

/-! ## How many records a buffer gives -/

theorem packetSteps_packet {bs trimmed rest : List Byte} {h : Header} (hf : FramedPacket bs h trimmed rest)
    {policy : Config.Policy} {recs : List Packet} (hr : packetRecords policy h trimmed = .ok recs) (fuel : Nat) :
    packetSteps policy (fuel + 1) bs = packetSteps policy fuel rest + 1 := by
  simp only [packetSteps, hf.onePacket_eq, hr, Except.map]

/-- A record costs its packet four payload bytes under DROP: a Receiver Report has a sender (R87). -/
theorem packetRecords_drop_size (h : Header) (trimmed : List Byte) (recs : List Packet)
    (hr : packetRecords .drop h trimmed = .ok recs) : 4 * recs.length ≤ trimmed.length := by
  unfold packetRecords at hr
  split at hr
  · obtain ⟨hlen, r, hd, -⟩ | ⟨-, hd⟩ := decodeRr_cases trimmed h.count
    · rw [hd] at hr
      cases hr
      simp only [List.length_cons, List.length_nil]
      omega
    · rw [hd] at hr
      cases hr
  · cases hr
    simp

/-- R144 (a), (b), (c), from any offset and packet index on. -/
structure SuccessBounds (policy : Config.Policy) (fuel : Nat) (bs : List Byte) (ps : List Packet) : Prop where
  words : bs.length % 4 = 0
  steps : ps.length ≤ packetSteps policy fuel bs
  drop : policy = .drop → 8 * ps.length ≤ bs.length
  keepOpaque : policy = .keepOpaque → 4 * ps.length ≤ bs.length ∧ ps.length = packetSteps policy fuel bs

theorem decodeFrom_bounds (policy : Config.Policy) (bs : List Byte) (fuel offset pkt : Nat) (ps : List Packet)
    (hfuel : bs.length ≤ fuel) (hd : decodeFrom policy offset pkt bs = .ok ps) : SuccessBounds policy fuel bs ps := by
  induction bs using framed_induction generalizing fuel offset pkt ps with
  | nil =>
    cases hd
    cases fuel <;> exact ⟨rfl, Nat.zero_le _, fun _ => Nat.le_refl _, fun _ => ⟨Nat.le_refl _, rfl⟩⟩
  | unframed bs k hbs hk => simp [decodeFrom_error policy offset pkt bs k hbs (hk policy)] at hd
  | packet bs h trimmed rest hf ih =>
    obtain ⟨recs, more, hr, hmore, rfl⟩ := hf.decodeFrom_eq_ok hd
    have hlen := hf.length_eq
    have htrim := hf.trimmed_le
    have hwords := payloadSize_eq h
    obtain ⟨f, rfl⟩ := exists_eq_succ_of_length_le hf.ne_nil hfuel
    obtain ⟨hle, hone, -⟩ := packetRecords_ok policy h trimmed recs hr
    obtain ⟨hmod, hsteps, hdrop, hopaque⟩ := ih f _ _ more (by omega) hmore
    refine ⟨by omega, ?_, fun hp => ?_, fun hp => ?_⟩
    · rw [packetSteps_packet hf hr, List.length_append]
      omega
    · have hsize := packetRecords_drop_size h trimmed recs (hp ▸ hr)
      have hlong := hdrop hp
      rw [List.length_append]
      omega
    · have hrecs := hone hp
      obtain ⟨hlong, hcount⟩ := hopaque hp
      rw [packetSteps_packet hf hr, List.length_append]
      omega

/-! ## The two policies -/

/-- What DROP keeps of OUT (R144 (d)). -/
def isReceiverReport : Packet → Bool
  | .receiverReport _ => true
  | .opaqueRecord _ _ => false

theorem packetRecords_drop (h : Header) (trimmed : List Byte) :
    packetRecords .drop h trimmed = (packetRecords .keepOpaque h trimmed).map (List.filter isReceiverReport) := by
  unfold packetRecords
  split
  · cases decodeRr trimmed h.count <;> rfl
  · rfl

/-- The policy bears on what a packet appends, and on no check (R144 (d)). -/
theorem decodeFrom_drop (offset pkt : Nat) (bs : List Byte) :
    decodeFrom .drop offset pkt bs = (decodeFrom .keepOpaque offset pkt bs).map (List.filter isReceiverReport) := by
  induction bs using framed_induction generalizing offset pkt with
  | nil => rfl
  | unframed bs k hbs hk => simp only [decodeFrom_error _ offset pkt bs k hbs (hk _), Except.map]
  | packet bs h trimmed rest hf ih =>
    have hdrop := packetRecords_drop h trimmed
    cases hr : packetRecords .keepOpaque h trimmed with
    | error k =>
      rw [hr] at hdrop
      rw [hf.decodeFrom_error hr, hf.decodeFrom_error hdrop]
      rfl
    | ok recs =>
      rw [hr] at hdrop
      rw [hf.decodeFrom_ok hr, hf.decodeFrom_ok hdrop, ih]
      cases decodeFrom .keepOpaque (offset + (4 + payloadSize h)) (pkt + 1) rest <;> simp [Except.map]

/-! ## Two buffers one after the other -/

/-- An error of a buffer that lies `offset` bytes and `pkt` packets into another (R142). -/
def DecodeError.past (offset pkt : Nat) (e : DecodeError) : DecodeError :=
  { kind := e.kind, offset := offset + e.offset, pkt := pkt + e.pkt }

/-- Where a buffer begins bears on where its error is reported, and on nothing else (R142). -/
theorem decodeFrom_eq_past (policy : Config.Policy) (bs : List Byte) (offset pkt : Nat) :
    decodeFrom policy offset pkt bs = (decodeFrom policy 0 0 bs).mapError (DecodeError.past offset pkt) := by
  induction bs using framed_induction generalizing offset pkt with
  | nil => rfl
  | unframed bs k hbs hk =>
    rw [decodeFrom_error _ offset pkt bs k hbs (hk _), decodeFrom_error _ 0 0 bs k hbs (hk _)]
    rfl
  | packet bs h trimmed rest hf ih =>
    cases hr : packetRecords policy h trimmed with
    | error k =>
      rw [hf.decodeFrom_error hr, hf.decodeFrom_error hr]
      rfl
    | ok recs =>
      rw [hf.decodeFrom_ok hr, hf.decodeFrom_ok hr, ih (offset + _), ih (0 + _)]
      cases decodeFrom policy 0 0 rest with
      | ok more => rfl
      | error e => simp [Except.map, Except.mapError, DecodeError.past, Nat.add_assoc]

/-- A buffer that decodes is followed by the packets of the next, at its length and its number of packets (R144 (e), (f)). -/
theorem decodeFrom_append (policy : Config.Policy) (a b : List Byte) (offset pkt : Nat) (ps steps : List Packet)
    (ha : decodeFrom policy offset pkt a = .ok ps) (hs : decodeFrom .keepOpaque offset pkt a = .ok steps) :
    decodeFrom policy offset pkt (a ++ b) =
      (decodeFrom policy (offset + a.length) (pkt + steps.length) b).map (ps ++ ·) := by
  induction a using framed_induction generalizing offset pkt ps steps with
  | nil =>
    cases ha
    cases hs
    change _ = (decodeFrom policy offset pkt b).map id
    rw [Except.map_id]
    rfl
  | unframed a k hbs hk => simp [decodeFrom_error policy offset pkt a k hbs (hk policy)] at ha
  | packet a h trimmed rest hf ih =>
    obtain ⟨recs, more, hr, hmore, rfl⟩ := hf.decodeFrom_eq_ok ha
    obtain ⟨one, others, hone, hothers, rfl⟩ := hf.decodeFrom_eq_ok hs
    obtain ⟨-, hcount, -⟩ := packetRecords_ok .keepOpaque h trimmed one hone
    have hoffset : offset + (4 + payloadSize h) + rest.length = offset + a.length := by
      rw [hf.length_eq, Nat.add_assoc]
    have hpkt : pkt + 1 + others.length = pkt + (one ++ others).length := by
      rw [List.length_append, hcount rfl, Nat.add_assoc]
    rw [(hf.append b).decodeFrom_ok hr, ih _ _ more others hmore hothers, hoffset, hpkt]
    cases decodeFrom policy (offset + a.length) (pkt + (one ++ others).length) b <;> simp [Except.map]

end Sys2Proof.Machine

namespace Sys2Proof.ReaderProofs

open Sys2Proof.Machine Sys2Proof.Statements

/-! ## Steps -/

/-- Settles O5: the instruction is the row of the header at CUR. -/
theorem stepRunsTheDecodedPacket : Obligations.StepRunsTheDecodedPacket :=
  fun s c n hrun hcmd hat => ⟨_, decode_headerAt s c, step_atPacket s c n hrun hcmd hat⟩

/-- Settles O7: every end of a packet step that has four bytes leaves in HDR.* the fields that R124 extracts. -/
theorem headerFetchExtractsTheFields : Obligations.HeaderFetchExtractsTheFields := by
  intro s c n hrun hcmd hat
  obtain ⟨t, ht, hhdr⟩ := exec_latches _ (headerAt s c) s c n (headerAt s c).toInstr_view.1 hat
  exact ⟨t, headerAt s c, (step_atPacket s c n hrun hcmd hat).trans ht, hhdr, headerAt_fields s c⟩

/-- Settles O9: the loop head of R120 with no byte left. -/
theorem decodeEndsAtTheBufferEnd : Obligations.DecodeEndsAtTheBufferEnd := by
  intro s c hrun hcmd hc hend
  rw [step_running_decode s c hrun hcmd hc, if_neg (by omega)]
  rfl

/-- Settles O44: `sequencer_safe`, for a step that is the sequencer's. -/
theorem runningOperationNeverStops : Obligations.RunningOperationNeverStops := by
  intro s h hrun
  rw [step_running s hrun.1 hrun.2]
  exact sequencer_safe s h hrun.1

/-- Settles O41: the invariant puts a running DECODE at a packet, from where `run_computes_scan` bounds the steps to its
end. -/
theorem decodeTerminates : Obligations.DecodeTerminates := by
  intro s h hs hcmd hhost
  obtain ⟨c, n, hc, hn, -⟩ := h.cursor hs hcmd
  obtain ⟨m, t, hm, hrun, hres⟩ := run_computes_scan s.ibufLen s c n
    ⟨hs, hcmd, hhost, h.noError (by simp [hs]), hc, hn⟩ (Nat.sub_le _ _)
  exact ⟨m, t, by omega, hrun, decodeResultIs_ended _ t hres⟩

/-! ## Packets -/

/-- Settles O10: the bounds check of `packetStep_eq`; past it, neither the stripper's error nor the dispatcher's is
Truncated. -/
theorem boundsCheckAndSlice : Obligations.BoundsCheckAndSlice := by
  intro i h s c n hi hv hat
  obtain ⟨hc, hn, h4⟩ := id hat
  rw [exec_packet i h s hi, ← payloadSize_eq]
  constructor
  · intro hshort
    rw [packetStep_eq h _ s c n hc hn, if_neg (by omega), if_neg (by simpa using hv), if_pos hshort]
    rfl
  · intro hl
    have hin : PayloadInside s h c := (payloadInside_iff s h c).mpr ⟨hv, hl⟩
    cases ht : trimPayload h (ibufBytes s (c + 4) (payloadSize h)) with
    | none => exact ⟨_, packetStep_untrimmed h _ s c n hat hin ht, rfl, rfl, rfl, .inr (by simp), fun _ => rfl⟩
    | some trimmed =>
      obtain ⟨hm, htrimmed⟩ := trimPayload_ibufBytes s h _ _ _ ht
      obtain ⟨t, hstep, hframed⟩ := dispatcher_framed i h s c n trimmed.length hn (by omega)
      refine ⟨t, (packetStep_trimmed h _ s c n _ hat hin (htrimmed ▸ ht)).trans hstep, hframed.pktStart,
        hframed.payStart, hframed.cur, hframed.err.imp_right fun he => by simp [he], fun hp => ?_⟩
      rw [trimPayload_plain h _ hp] at ht
      cases ht
      rw [hframed.payEnd, ibufBytes_length]

/-- Settles O11: `trimPayload_padded` says when the stripper raises and what it leaves otherwise; the dispatcher's error is
another one. -/
theorem paddingIsCheckedAndTrimmed : Obligations.PaddingIsCheckedAndTrimmed := by
  intro i h s c n p size hi hat hin hp hsize hlast
  rw [← payloadSize_eq] at hsize
  subst hsize
  obtain ⟨-, hn, -⟩ := id hat
  obtain ⟨-, hl⟩ := (payloadInside_iff s h c).mp hin
  have htrim := trimPayload_padded s h (c + 4) _ p hp hlast
  rw [exec_packet i h s hi]
  constructor
  · intro hbad
    rw [if_neg (by omega)] at htrim
    exact packetStep_untrimmed h _ s c n hat hin htrim
  · intro _ hpos hle
    rw [if_pos ⟨hpos, hle⟩] at htrim
    obtain ⟨t, hstep, hframed⟩ := dispatcher_framed i h s c n (payloadSize h - p) hn (by omega)
    refine ⟨t, (packetStep_trimmed h _ s c n _ hat hin htrim).trans hstep, hframed.payStart, ?_, hframed.cur,
      hframed.err.imp_right fun he => by simp [he]⟩
    rw [hframed.payEnd, Nat.add_sub_assoc hle]

/-- Settles O12: a skipped type reaches `skipPacket`, which cannot raise. -/
theorem skippedPacketsComplete : Obligations.SkippedPacketsComplete := by
  intro i h s c n m hskip _ hi hat hin ht
  obtain ⟨hm, htrim⟩ := trimPayload_trimmedTo s h c m ht
  obtain ⟨-, hn, -⟩ := id hat
  obtain ⟨-, hl⟩ := (payloadInside_iff s h c).mp hin
  rw [exec_packet i h s hi, packetStep_trimmed h _ s c n m hat hin htrim, dispatcher_skipped i h hskip,
    skipPacket_completes s h h.pt c n m hn (by omega), packetCompleted, payloadSize_eq]
  rfl

/-- Settles O13: the trimmed payload has the size of a body with `count` blocks, so DECODE_RR reads it from IBUF. -/
theorem receiverReportPacketCompletes : Obligations.ReceiverReportPacketCompletes := by
  intro p count length h s c n m hh hat hin ht hm
  subst hh
  obtain ⟨hle, htrim⟩ := trimPayload_trimmedTo s _ c m ht
  obtain ⟨-, hn, -⟩ := id hat
  obtain ⟨-, hl⟩ := (payloadInside_iff s _ c).mp hin
  rw [exec_packet _ _ s rfl, packetStep_trimmed _ _ s c n m hat hin htrim]
  refine (dispatchRr_completes s _ c n m _ hn (by omega) (decodeRr_ibufBytes s (c + 4) m count hm)).trans ?_
  rw [packetCompleted, payloadSize_eq]
  rfl

/-! ## Laws of DECODE -/

/-- Settles O36: `decodeFrom_bounds` at the start of the buffer, with its length as the bound. -/
theorem decodeSuccessBounds : Obligations.DecodeSuccessBounds := by
  intro bytes ps
  have bounds (policy : Config.Policy) (hd : decodeFunction policy bytes = .ok ps) :=
    decodeFrom_bounds policy bytes bytes.length 0 0 ps (Nat.le_refl _) hd
  refine ⟨fun policy hd => ⟨(bounds policy hd).words, (bounds policy hd).steps⟩, fun hd => ?_, fun hd => ?_⟩
  · have hlong := (bounds .drop hd).drop rfl
    omega
  · obtain ⟨hlong, hcount⟩ := (bounds .keepOpaque hd).keepOpaque rfl
    exact ⟨by omega, hcount⟩

/-- Settles O37: DROP's result is OPAQUE's with the filter on its records (`decodeFrom_drop`). -/
theorem policiesAgree : Obligations.PoliciesAgree := by
  intro bytes
  rw [decodeFunction_eq, decodeFunction_eq, decodeFrom_drop]
  cases decodeFrom .keepOpaque 0 0 bytes with
  | ok steps =>
    refine ⟨fun ps hd => ?_, fun e => by simp [Except.map]⟩
    cases hd
    exact congrArg Except.ok (List.filter_congr fun p _ => by cases p <;> rfl)
  | error e => exact ⟨fun ps hd => (nomatch hd), fun e' => by simp [Except.map]⟩

/-- Settles O38: `decodeFrom_append`, with the second buffer's result moved past the first (`decodeFrom_eq_past`). -/
theorem decodeOfConcatenation : Obligations.DecodeOfConcatenation := by
  intro policy a b ps steps ha hs
  have happend := decodeFrom_append policy a b 0 0 ps steps ha hs
  rw [decodeFrom_eq_past policy b (0 + _), Nat.zero_add, Nat.zero_add] at happend
  simp only [decodeFunction_eq, happend]
  exact ⟨fun qs hq => by rw [hq]; rfl, fun e he => by rw [he]; rfl⟩

end Sys2Proof.ReaderProofs
end

section
/-! PROOFS of the statements of 41_rr_packet_codec.md. From the inside out, each layer is a pair of inverses: bytes and numbers
(`bytes32`, `bytes24`), the report block (`blockBytes`, `decodeBlock`), the body (`bodyBytes`, `bodyReport`). The codec's own
functions are tied to these once (`encodeBlock_inRange`, `encodeRr_legal`, `decodeRr_sized`). A packet is the header `rrHeader`
and a body (`packetBytes_eq`), which the loop of DECODE frames (`plainPacket_framed`); the round trips are inductions over the
packets. -/

namespace Sys2Proof

/-! ## The checks on a record, as numbers (R40, R41) -/

theorem ReportBlock.inRange_iff (b : ReportBlock) :
    b.inRange = true ↔ -8388608 ≤ b.packetsLost ∧ b.packetsLost ≤ 8388607 := by
  simp [ReportBlock.inRange]

theorem ReceiverReport.legal_iff (r : ReceiverReport) :
    r.legal = true ↔ r.reports.length ≤ 31 ∧ ∀ b ∈ r.reports, b.inRange = true := by
  simp [ReceiverReport.legal, ReceiverReport.fits]

theorem ReceiverReport.fits_iff (r : ReceiverReport) : r.fits = true ↔ r.reports.length ≤ 31 := by
  simp [ReceiverReport.fits]

theorem ReceiverReport.fits_of_legal (r : ReceiverReport) (h : r.legal = true) : r.fits = true :=
  r.fits_iff.mpr (r.legal_iff.mp h).1

end Sys2Proof

namespace Sys2Proof.Machine

open Sys2Proof.Statements

/-! ## Bytes and numbers -/

theorem beBytes32_eq_bytes32 (v : Word) : beBytes32 v = bytes32 v := by
  simp [beBytes32, bytes32, BitVec.extractLsb', Nat.shiftRight_eq_div_pow]

@[simp] theorem bytes32_length (v : Word) : (bytes32 v).length = 4 := rfl

theorem beU32_bytes32 (v : Word) : beU32 (bytes32 v) = v := by
  rw [bytes32, beU32_eq_word32, word32]
  apply BitVec.eq_of_toNat_eq
  simp only [BitVec.toNat_ofNat]
  omega

theorem bytes32_beU32 (l : List Byte) (h : l.length = 4) : bytes32 (beU32 l) = l := by
  obtain ⟨a, b, c, d, rfl⟩ := List.length_eq_four.mp h
  simp only [beU32_eq_word32, word32, bytes32, List.cons.injEq, and_true, ← BitVec.toNat_inj, BitVec.toNat_ofNat]
  omega

/-- A one-byte field is its byte (R88). -/
theorem beU8_singleton (b : Byte) : beU8 [b] = b := by
  simp [beU8, beNat]

/-- TRUNC24 of a value in range (R195). -/
theorem trunc24_inRange (v : Int) (hlo : -8388608 ≤ v) (hhi : v ≤ 8388607) : trunc24 v = some (bytes24 v) := by
  have hword : (BitVec.ofInt 32 v).toNat = (v % 4294967296).toNat := BitVec.toNat_ofInt v
  unfold trunc24
  rw [if_pos ⟨hlo, hhi⟩]
  simp only [bytes24, Option.some.injEq, List.cons.injEq, and_true, ← BitVec.toNat_inj, BitVec.extractLsb'_toNat,
    BitVec.toNat_ofNat, hword, Nat.shiftRight_eq_div_pow]
  omega

/-- SEXT24 takes back TRUNC24's bytes (R197). -/
theorem sext24_bytes24 (v : Int) (hlo : -8388608 ≤ v) (hhi : v ≤ 8388607) : sext24 (bytes24 v) = v := by
  rw [bytes24, sext24_eq_signed24]
  unfold signed24
  simp only [BitVec.toNat_ofNat]
  omega

/-- TRUNC24 takes back SEXT24's value (R197). -/
theorem bytes24_sext24 (l : List Byte) (h : l.length = 3) : bytes24 (sext24 l) = l := by
  obtain ⟨a, b, c, rfl⟩ := List.length_eq_three.mp h
  have hvalue : (signed24 a b c % 16777216).toNat = a.toNat * 65536 + b.toNat * 256 + c.toNat := by
    unfold signed24
    dsimp only
    split <;> omega
  simp only [sext24_eq_signed24, bytes24, hvalue, List.cons.injEq, and_true, ← BitVec.toNat_inj, BitVec.toNat_ofNat]
  omega

/-! ## Slices -/

theorem slice_length (l : List Byte) (a n : Nat) (h : a + n ≤ l.length) : (slice l a n).length = n := by
  simp only [slice, List.length_take, List.length_drop]
  omega

/-- A slice and the slice that begins at its end are one slice (R11). -/
theorem slice_append_slice (l : List Byte) (a m n : Nat) : slice l a m ++ slice l (a + m) n = slice l a (m + n) := by
  rw [slice, slice, slice, List.take_add, List.drop_drop]

theorem slice_all (l : List Byte) (n : Nat) (h : l.length = n) : slice l 0 n = l := by
  simp [slice, ← h]

/-- Consecutive slices of `k` bytes are one slice. -/
theorem flatMap_slice (l : List Byte) (a k n : Nat) :
    (List.range n).flatMap (fun i => slice l (a + k * i) k) = slice l a (k * n) := by
  induction n with
  | zero => rfl
  | succ n ih => rw [List.range_succ, List.flatMap_append, ih, List.flatMap_singleton, slice_append_slice, Nat.mul_succ]

/-! ## The report block -/

@[simp] theorem blockBytes_length (b : ReportBlock) : (blockBytes b).length = 24 := rfl

/-- ENCODE_BLOCK of a block in range (R194). -/
theorem encodeBlock_inRange (b : ReportBlock) (h : b.inRange = true) : encodeBlock b = some (blockBytes b) := by
  obtain ⟨hlo, hhi⟩ := b.inRange_iff.mp h
  simp only [encodeBlock, trunc24_inRange _ hlo hhi, beBytes32_eq_bytes32, blockBytes]

/-- DECODE_BLOCK takes back ENCODE_BLOCK's bytes (R197). -/
theorem decodeBlock_blockBytes (b : ReportBlock) (h : b.inRange = true) : decodeBlock (blockBytes b) = b := by
  obtain ⟨hlo, hhi⟩ := b.inRange_iff.mp h
  have fields : decodeBlock (blockBytes b) =
      { ssrc := beU32 (bytes32 b.ssrc)
        fractionLost := beU8 [b.fractionLost]
        packetsLost := sext24 (bytes24 b.packetsLost)
        highestSequence := beU32 (bytes32 b.highestSequence)
        jitter := beU32 (bytes32 b.jitter)
        lsr := beU32 (bytes32 b.lsr)
        dlsr := beU32 (bytes32 b.dlsr) } := rfl
  rw [fields]
  simp only [beU32_bytes32, beU8_singleton, sext24_bytes24 _ hlo hhi]

/-- The bytes of a decoded block are the bytes it was decoded from (R197). -/
theorem blockBytes_decodeBlock (l : List Byte) (h : l.length = 24) : blockBytes (decodeBlock l) = l := by
  have hword (a : Nat) (ha : a + 4 ≤ 24) : bytes32 (beU32 (slice l a 4)) = slice l a 4 :=
    bytes32_beU32 _ (slice_length l a 4 (by omega))
  have hfraction : [beU8 (slice l 4 1)] = slice l 4 1 := by
    obtain ⟨b, hb⟩ := List.length_eq_one_iff.mp (slice_length l 4 1 (by omega))
    rw [hb, beU8_singleton]
  have hlost : bytes24 (sext24 (slice l 5 3)) = slice l 5 3 := bytes24_sext24 _ (slice_length l 5 3 (by omega))
  simp only [blockBytes, decodeBlock, hfraction, hlost, hword 0 (by omega), hword 8 (by omega), hword 12 (by omega),
    hword 16 (by omega), hword 20 (by omega)]
  rw [slice_append_slice l 0 4 1, slice_append_slice l 0 5 3, slice_append_slice l 0 8 4, slice_append_slice l 0 12 4,
    slice_append_slice l 0 16 4, slice_append_slice l 0 20 4]
  exact slice_all l 24 h

/-! ## The body of a Receiver Report -/

/-- A count of at most 31 reports is kept by the five bits of the header's count (R41). -/
theorem toNat_ofNat_count (n : Nat) (h : n ≤ 31) : (BitVec.ofNat 5 n).toNat = n := by
  rw [BitVec.toNat_ofNat]
  omega

theorem flatMap_blockBytes_length (bs : List ReportBlock) : (bs.flatMap blockBytes).length = 24 * bs.length := by
  simp [List.length_flatMap, Nat.mul_comm]

theorem bodyBytes_length (r : ReceiverReport) : (bodyBytes r).length = 4 + 24 * r.reports.length := by
  rw [bodyBytes, List.length_append, bytes32_length, flatMap_blockBytes_length]

/-- The block loop over blocks in range (R166). -/
theorem encodeBlocks_inRange (bs : List ReportBlock) (h : ∀ b ∈ bs, b.inRange = true) (i : Nat) :
    encodeBlocks i bs = .ok (bs.flatMap blockBytes) := by
  induction bs generalizing i with
  | nil => rfl
  | cons b bs ih =>
    obtain ⟨hb, hbs⟩ := List.forall_mem_cons.mp h
    simp only [encodeBlocks, encodeBlock_inRange b hb, ih hbs (i + 1), List.flatMap_cons]

/-- ENCODE_RR of a legal Receiver Report (R166). -/
theorem encodeRr_legal (r : ReceiverReport) (h : r.legal = true) : encodeRr r = .ok (bodyBytes r) := by
  obtain ⟨-, hblocks⟩ := r.legal_iff.mp h
  simp only [encodeRr, encodeBlocks_inRange r.reports hblocks, beBytes32_eq_bytes32, bodyBytes]

/-- ENCODE_RR names the first block out of range (R166, R226). -/
theorem encodeRr_outOfRange (r : ReceiverReport) (good bad : List ReportBlock) (b : ReportBlock)
    (hr : r.reports = good ++ b :: bad) (hgood : ∀ g ∈ good, g.inRange = true) (hb : b.inRange = false) :
    encodeRr r = .error good.length := by
  simp only [encodeRr, hr, encodeBlocks_error good bad b hgood hb, Nat.zero_add]

/-- The Receiver Report of `n` blocks that a body stands for (R162). -/
def bodyReport (body : List Byte) (n : Nat) : ReceiverReport :=
  { senderSsrc := beU32 (slice body 0 4)
    reports := (List.range n).map fun j => decodeBlock (slice body (4 + 24 * j) 24) }

@[simp] theorem bodyReport_reports_length (body : List Byte) (n : Nat) : (bodyReport body n).reports.length = n := by
  simp [bodyReport]

/-- DECODE_RR of a body of the right size (R161, R162). -/
theorem decodeRr_sized (body : List Byte) (count : BitVec 5) (h : body.length = 4 + 24 * count.toNat) :
    decodeRr body count = some (bodyReport body count.toNat) :=
  if_pos (by simpa [rrBodySize] using h)

theorem decodeRr_eq_some_iff (body : List Byte) (count : BitVec 5) (r : ReceiverReport) :
    decodeRr body count = some r ↔ body.length = 4 + 24 * count.toNat ∧ r = bodyReport body count.toNat := by
  obtain ⟨hlen, -⟩ | ⟨hlen, hnone⟩ := decodeRr_cases body count
  · simp [decodeRr_sized body count hlen, hlen, eq_comm]
  · simp [hnone, hlen]

/-- Block `j` stands at byte `24 * j` of the blocks (R87). -/
theorem slice_flatMap_blockBytes (bs : List ReportBlock) (j : Nat) (hj : j < bs.length) :
    slice (bs.flatMap blockBytes) (24 * j) 24 = blockBytes bs[j] := by
  induction bs generalizing j with
  | nil => cases hj
  | cons b bs ih =>
    rw [List.flatMap_cons]
    cases j with
    | zero => exact List.take_left' (blockBytes_length b)
    | succ j =>
      have hdrop : (blockBytes b ++ bs.flatMap blockBytes).drop (24 * (j + 1)) =
          (bs.flatMap blockBytes).drop (24 * j) := by
        rw [Nat.mul_succ, Nat.add_comm, ← List.drop_drop]
        rfl
      rw [slice, hdrop]
      exact ih j (by simpa using hj)

/-- DECODE_RR takes back ENCODE_RR's body (R173 (a)). -/
theorem bodyReport_bodyBytes (r : ReceiverReport) (h : ∀ b ∈ r.reports, b.inRange = true) :
    bodyReport (bodyBytes r) r.reports.length = r := by
  have hblock (j : Nat) (hj : j < r.reports.length) :
      decodeBlock (slice (bodyBytes r) (4 + 24 * j) 24) = r.reports[j] := by
    have hskip : slice (bodyBytes r) (4 + 24 * j) 24 = slice (r.reports.flatMap blockBytes) (24 * j) 24 := by
      rw [slice, ← List.drop_drop]
      rfl
    rw [hskip, slice_flatMap_blockBytes r.reports j hj, decodeBlock_blockBytes _ (h _ (List.getElem_mem hj))]
  have hreports : (bodyReport (bodyBytes r) r.reports.length).reports = r.reports :=
    List.ext_getElem (by simp) fun j _ hj => by simp [bodyReport, hblock j hj]
  have hsender : (bodyReport (bodyBytes r) r.reports.length).senderSsrc = r.senderSsrc := beU32_bytes32 r.senderSsrc
  exact congrArg₂ ReceiverReport.mk hsender hreports

/-- The body of a decoded Receiver Report is the body it was decoded from (R173 (c)). -/
theorem bodyBytes_bodyReport (body : List Byte) (n : Nat) (h : body.length = 4 + 24 * n) :
    bodyBytes (bodyReport body n) = body := by
  have hblock (j : Nat) (hj : j ∈ List.range n) :
      blockBytes (decodeBlock (slice body (4 + 24 * j) 24)) = slice body (4 + 24 * j) 24 := by
    have hlt := List.mem_range.mp hj
    exact blockBytes_decodeBlock _ (slice_length body _ 24 (by omega))
  calc bodyBytes (bodyReport body n)
      = bytes32 (beU32 (slice body 0 4)) ++
          (List.range n).flatMap fun j => blockBytes (decodeBlock (slice body (4 + 24 * j) 24)) := by
        rw [bodyBytes, bodyReport, List.flatMap_map]
    _ = slice body 0 4 ++ slice body 4 (24 * n) := by
        rw [bytes32_beU32 _ (slice_length body 0 4 (by omega)), List.flatMap_congr hblock, flatMap_slice]
    _ = body := by rw [slice_append_slice body 0 4, slice_all body _ h]

/-! ## The packet -/

/-- The header of a Receiver Report packet of `n` blocks (R167). -/
def rrHeader (n : BitVec 5) : Header :=
  { v := 2, p := 0, count := n, pt := 201, length := BitVec.ofNat 16 (1 + 6 * n.toNat) }

theorem rrHeader_length (n : BitVec 5) : (rrHeader n).length.toNat = 1 + 6 * n.toNat := by
  simp only [rrHeader, BitVec.toNat_ofNat]
  omega

theorem payloadSize_rrHeader (n : BitVec 5) : payloadSize (rrHeader n) = 4 + 24 * n.toNat := by
  rw [payloadSize_eq, rrHeader_length]
  omega

/-- Version 2, no padding and a count in one byte (R167). -/
theorem rrHeader_byte0 : ∀ n : BitVec 5,
    (2#2 ++ 0#1 ++ n : BitVec 8) = BitVec.ofNat 8 (128 + n.toNat) ∧
      0x80 ||| n.setWidth 8 = BitVec.ofNat 8 (128 + n.toNat) := by
  decide

theorem extractLsb'_ofNat_bytes (x : Nat) (h : x < 65536) :
    (BitVec.ofNat 16 x).extractLsb' 8 8 = BitVec.ofNat 8 (x / 256) ∧
      (BitVec.ofNat 16 x).extractLsb' 0 8 = BitVec.ofNat 8 x := by
  simp only [← BitVec.toNat_inj, BitVec.extractLsb'_toNat, BitVec.toNat_ofNat, Nat.shiftRight_eq_div_pow]
  omega

/-- The four header bytes of R167. -/
theorem rrHeader_toBytes (n : BitVec 5) :
    (rrHeader n).toBytes = [BitVec.ofNat 8 (128 + n.toNat), 201, BitVec.ofNat 8 ((1 + 6 * n.toNat) / 256),
      BitVec.ofNat 8 (1 + 6 * n.toNat)] := by
  obtain ⟨hhigh, hlow⟩ := extractLsb'_ofNat_bytes (1 + 6 * n.toNat) (by omega)
  simp only [Header.toBytes, rrHeader, hhigh, hlow]
  exact congrArg (· :: _) (rrHeader_byte0 n).1

/-- WRAP_RR puts the header's bytes before the body (R167). -/
theorem wrapRr_eq (n : BitVec 5) (body : List Byte) : wrapRr n body = (rrHeader n).toBytes ++ body := by
  obtain ⟨hhigh, hlow⟩ := extractLsb'_ofNat_bytes (1 + 6 * n.toNat) (by omega)
  rw [wrapRr, rrHeader_toBytes, (rrHeader_byte0 n).2, beBytes16, hhigh, hlow]
  rfl

/-- The canonical packet is its header and its body (R103, R167). -/
theorem packetBytes_eq (r : ReceiverReport) (h : r.reports.length ≤ 31) :
    packetBytes r = (rrHeader (BitVec.ofNat 5 r.reports.length)).toBytes ++ bodyBytes r := by
  rw [rrHeader_toBytes, toNat_ofNat_count _ h, packetBytes]

theorem packetBytes_length (r : ReceiverReport) : (packetBytes r).length = 8 + 24 * r.reports.length := by
  rw [packetBytes, List.length_append, bodyBytes_length]
  simp only [List.length_cons, List.length_nil]
  omega

/-- A version-2 header of type 201 without padding, and its whole payload, pass every check of framing (R123 to R131). -/
theorem plainPacket_framed (h : Header) (payload rest : List Byte) (hv : h.v = 2) (hp : h.p = 0)
    (hl : payload.length = 4 * h.length.toNat) : FramedPacket (h.toBytes ++ payload ++ rest) h payload rest :=
  ⟨hv, payload, rfl, by rw [payloadSize_eq, hl], trimPayload_plain h payload hp⟩

/-- A framed packet of type 201 appends one Receiver Report (R134). -/
theorem packetRecords_rr_eq_ok_iff (policy : Config.Policy) (h : Header) (payload : List Byte) (recs : List Packet)
    (ht : h.pt = 201) : packetRecords policy h payload = .ok recs ↔
      ∃ r, decodeRr payload h.count = some r ∧ recs = [.receiverReport r] := by
  unfold packetRecords
  rw [if_pos ht]
  cases decodeRr payload h.count <;> simp [eq_comm]

/-- The header of a packet without padding whose payload is a body of its count (R167, R168). -/
theorem eq_rrHeader (h : Header) (hv : h.v = 2) (hp : h.p = 0) (ht : h.pt = 201)
    (hl : 4 * h.length.toNat = 4 + 24 * h.count.toNat) : h = rrHeader h.count := by
  have hlength : h.length = (rrHeader h.count).length := by
    apply BitVec.eq_of_toNat_eq
    rw [rrHeader_length]
    omega
  obtain ⟨v, p, count, pt, length⟩ := h
  change length = BitVec.ofNat 16 (1 + 6 * count.toNat) at hlength
  dsimp only at hv hp ht
  subst hv hp ht hlength
  rfl

/-! ## The packet loop of ENCODE -/

/-- A legal first packet is written, and the loop goes on (R170). -/
theorem encodePackets_cons (k : Nat) (r : ReceiverReport) (rs : List ReceiverReport) (h : r.legal = true) :
    encodePackets k (r :: rs) = (encodePackets (k + 1) rs).map (packetBytes r ++ ·) := by
  obtain ⟨hfits, -⟩ := r.legal_iff.mp h
  simp only [encodePackets, encodeRr_legal r h, wrapRr_eq, ← packetBytes_eq r hfits]
  cases encodePackets (k + 1) rs <;> rfl

/-- ENCODE of legal Receiver Reports is their packets, concatenated (R170). -/
theorem encodePackets_legal (rs : List ReceiverReport) (h : ∀ r ∈ rs, r.legal = true) (k : Nat) :
    encodePackets k rs = .ok (rs.flatMap packetBytes) := by
  induction rs generalizing k with
  | nil => rfl
  | cons r rs ih =>
    obtain ⟨hr, hrs⟩ := List.forall_mem_cons.mp h
    rw [encodePackets_cons k r rs hr, ih hrs, List.flatMap_cons]
    rfl

/-- The first packet with a block out of range ends the loop (R170, R226). -/
theorem encodePackets_outOfRange (before after : List ReceiverReport) (r : ReceiverReport) (j : Nat)
    (hbefore : ∀ q ∈ before, q.legal = true) (hr : encodeRr r = .error j) (k : Nat) :
    encodePackets k (before ++ r :: after) = .error (k + before.length, j) := by
  induction before generalizing k with
  | nil => simp only [List.nil_append, encodePackets, hr, List.length_nil, Nat.add_zero]
  | cons q before ih =>
    obtain ⟨hq, hqs⟩ := List.forall_mem_cons.mp hbefore
    rw [List.cons_append, encodePackets_cons k q _ hq, ih hqs, List.length_cons, Nat.add_right_comm, Nat.add_assoc]
    rfl

/-- The step of a running ENCODE is its whole run (R170; log 1). -/
theorem step_running_encode (s : State) (hrun : Running s) (hcmd : s.cmd = 2) : step s = encodeRun s := by
  obtain ⟨hbusy, hwaits⟩ := hrun
  rw [step_running s hbusy hwaits, sequencer_encode s hcmd]

/-- PIN's records are the Receiver Reports that the packet loop takes (R170, R171). -/
theorem acceptPackets_of_pinRecords (s : State) (rs : List ReceiverReport)
    (hpin : pinRecords s = rs.map .receiverReport) (hfits : ∀ r ∈ rs, r.fits = true) :
    acceptPackets 0 (pinRecords s) = .ok rs := by
  rw [hpin, acceptPackets_ok rs hfits 0]

/-! ## The round trips -/

/-- A legal packet at the front of a buffer appends its Receiver Report (R173 (b)). -/
theorem decodeFrom_packetBytes_append (policy : Config.Policy) (r : ReceiverReport) (h : r.legal = true) (rest : List Byte)
    (offset pkt : Nat) : ∃ offset', decodeFrom policy offset pkt (packetBytes r ++ rest) =
      (decodeFrom policy offset' (pkt + 1) rest).map ([.receiverReport r] ++ ·) := by
  obtain ⟨hfits, hblocks⟩ := r.legal_iff.mp h
  obtain ⟨n, hn⟩ : ∃ n, n = BitVec.ofNat 5 r.reports.length := ⟨_, rfl⟩
  have hcount : n.toNat = r.reports.length := hn ▸ toNat_ofNat_count _ hfits
  have hsize : (bodyBytes r).length = 4 + 24 * n.toNat := by rw [bodyBytes_length, hcount]
  have hframed : FramedPacket (packetBytes r ++ rest) (rrHeader n) (bodyBytes r) rest := by
    rw [packetBytes_eq r hfits, ← hn]
    exact plainPacket_framed (rrHeader n) _ rest rfl rfl (by rw [← payloadSize_eq, payloadSize_rrHeader, hsize])
  have hrecords : packetRecords policy (rrHeader n) (bodyBytes r) = .ok [.receiverReport r] :=
    (packetRecords_rr_eq_ok_iff policy _ _ _ rfl).mpr
      ⟨r, (decodeRr_eq_some_iff _ n r).mpr ⟨hsize, by rw [hcount, bodyReport_bodyBytes r hblocks]⟩, rfl⟩
  exact ⟨_, hframed.decodeFrom_ok hrecords offset pkt⟩

theorem decodeFrom_flatMap_packetBytes (policy : Config.Policy) (rs : List ReceiverReport)
    (h : ∀ r ∈ rs, r.legal = true) (offset pkt : Nat) :
    decodeFrom policy offset pkt (rs.flatMap packetBytes) = .ok (rs.map .receiverReport) := by
  induction rs generalizing offset pkt with
  | nil => rfl
  | cons r rs ih =>
    obtain ⟨hr, hrs⟩ := List.forall_mem_cons.mp h
    obtain ⟨offset', hstep⟩ := decodeFrom_packetBytes_append policy r hr (rs.flatMap packetBytes) offset pkt
    rw [List.flatMap_cons, hstep, ih hrs]
    rfl

/-- A plain packet that decodes is the canonical packet of what it decodes to (R173 (c)). -/
theorem packetBytes_decodeRr (h : Header) (payload : List Byte) (r : ReceiverReport) (hv : h.v = 2) (hp : h.p = 0)
    (ht : h.pt = 201) (hl : payload.length = 4 * h.length.toNat) (hr : decodeRr payload h.count = some r) :
    packetBytes r = h.toBytes ++ payload := by
  obtain ⟨hsize, rfl⟩ := (decodeRr_eq_some_iff payload h.count r).mp hr
  have hcount : BitVec.ofNat 5 h.count.toNat = h.count := by simp
  rw [packetBytes_eq _ (by rw [bodyReport_reports_length]; omega), bodyReport_reports_length, hcount,
    bodyBytes_bodyReport payload _ hsize, ← eq_rrHeader h hv hp ht (hl ▸ hsize)]

/-- A plain buffer that decodes is the packets of legal Receiver Reports, in order (R173 (c)). -/
theorem plainReports_eq_flatMap (policy : Config.Policy) (bytes : List Byte) (hplain : PlainReports bytes)
    (offset pkt : Nat) (ps : List Packet) (hd : decodeFrom policy offset pkt bytes = .ok ps) :
    ∃ rs : List ReceiverReport, ps = rs.map .receiverReport ∧ (∀ r ∈ rs, r.legal = true) ∧
      rs.flatMap packetBytes = bytes := by
  induction hplain generalizing offset pkt ps with
  | nil =>
    cases hd
    exact ⟨[], rfl, by simp, rfl⟩
  | cons h payload rest hv hp ht hl _ ih =>
    obtain ⟨recs, more, hrecs, hmore, rfl⟩ := (plainPacket_framed h payload rest hv hp hl).decodeFrom_eq_ok hd
    obtain ⟨r, hr, rfl⟩ := (packetRecords_rr_eq_ok_iff policy h payload recs ht).mp hrecs
    obtain ⟨rs, rfl, hlegal, rfl⟩ := ih _ _ more hmore
    refine ⟨r :: rs, rfl, List.forall_mem_cons.mpr ⟨decodeRr_legal payload h.count r hr, hlegal⟩, ?_⟩
    rw [List.flatMap_cons, packetBytes_decodeRr h payload r hv hp ht hl hr]

end Sys2Proof.Machine

namespace Sys2Proof.PacketCodecProofs

open Sys2Proof.Machine Sys2Proof.Statements

/-! ## Laws of the codec -/

/-- Settles O34: ENCODE gives the packets concatenated, and DECODE reads each back, by induction on the packets. -/
theorem decodeOfEncodeGivesThePackets : Obligations.DecodeOfEncodeGivesThePackets :=
  fun policy rs hrs => ⟨_, encodePackets_legal rs hrs 0, decodeFrom_flatMap_packetBytes policy rs hrs 0 0⟩

/-- Settles O35: a plain buffer that decodes is the packets of its Receiver Reports, by induction on the buffer. -/
theorem encodeOfDecodeGivesTheBytes : Obligations.EncodeOfDecodeGivesTheBytes := by
  intro policy bytes ps hplain hd
  obtain ⟨rs, hps, hlegal, rfl⟩ := plainReports_eq_flatMap policy bytes hplain 0 0 ps hd
  exact ⟨rs, hps, encodePackets_legal rs hlegal 0⟩

/-- Settles O33: the body and the Receiver Report determine each other (`bodyReport_bodyBytes`). -/
theorem receiverReportRoundTrip : Obligations.ReceiverReportRoundTrip := by
  intro r hr
  obtain ⟨hfits, hblocks⟩ := r.legal_iff.mp hr
  have hcount := toNat_ofNat_count r.reports.length hfits
  refine ⟨_, encodeRr_legal r hr, (decodeRr_eq_some_iff _ _ r).mpr ⟨?_, ?_⟩⟩
  · rw [bodyBytes_length, hcount]
  · rw [hcount, bodyReport_bodyBytes r hblocks]

/-- Settles O32: one packet is its header, which decodes to the row RR, and its body. -/
theorem encodedPacketSize : Obligations.EncodedPacketSize := by
  intro r bytes hr he
  obtain ⟨hfits, -⟩ := r.legal_iff.mp hr
  have hbytes : bytes = packetBytes r := by
    have hone := he.symm.trans (encodePackets_legal [r] (by simpa using hr) 0)
    simpa using hone
  subst hbytes
  obtain ⟨n, hn⟩ : ∃ n, n = BitVec.ofNat 5 r.reports.length := ⟨_, rfl⟩
  have hcount : n.toNat = r.reports.length := hn ▸ toNat_ofNat_count _ hfits
  have hlen := packetBytes_length r
  have hlength := rrHeader_length n
  refine ⟨hlen, by omega, by omega, n, (rrHeader n).length, _, ?_, hcount, by rw [hlength, hcount], rfl, ?_⟩
  · rw [packetBytes_eq r hfits, ← hn]
    exact decode_toBytes (rrHeader n) (bodyBytes r)
  · rw [List.length_drop]
    omega

/-! ## Internal operations -/

/-- Settles O29: `wrapRr_eq`, with the header's four bytes written out. -/
theorem wrapRrPutsTheHeader : Obligations.WrapRrPutsTheHeader := by
  intro n body s
  rw [← rrHeader_toBytes, ← wrapRr_eq]
  rfl

/-- Settles O27: a body of the right size gives `bodyReport`, whose block `j` is DECODE_BLOCK of slice `j`. -/
theorem decodeRrReadsTheBody : Obligations.DecodeRrReadsTheBody := by
  intro payload count s
  constructor
  · intro hlen
    refine ⟨bodyReport payload count.toNat, ?_, bodyReport_reports_length _ _, ?_, ?_⟩
    · change execDecodeRr payload count s = _
      simp only [execDecodeRr, decodeRr_sized payload count hlen]
      rfl
    · rintro b0 b1 b2 b3 rest rfl
      exact beU32_eq_word32 b0 b1 b2 b3
    · intro j b hj hb
      have hblock : (bodyReport payload count.toNat).reports[j]? = some (decodeBlock b.toList) := by
        simp [bodyReport, hj, slice, ← hb]
      rw [hblock]
      rfl
  · intro c n hlen hc hn
    rw [exec_decodeRr_wrongSize payload count s hlen, raiseHere_eq _ s c n hc hn]
    rfl

/-- Settles O28: `encodeRr_legal`, `encodeRr_outOfRange` and the check of R171 are the three clauses. -/
theorem encodeRrWritesTheBodyOrRaises : Obligations.EncodeRrWritesTheBodyOrRaises := by
  intro r s
  change (_ → execEncodeRr r s = _ ∧ _) ∧ (∀ good bad b, _ → _ → _ → _ → execEncodeRr r s = _) ∧
    (_ → execEncodeRr r s = _)
  refine ⟨fun hr => ⟨?_, bodyBytes_length r⟩, fun good bad b hlen hr hgood hb => ?_, fun hlen => ?_⟩
  · simp only [execEncodeRr, r.fits_of_legal hr, if_true, encodeRr_legal r hr]
    rfl
  · simp only [execEncodeRr, r.fits_iff.mpr hlen, if_true, encodeRr_outOfRange r good bad b hr hgood hb]
    rfl
  · exact if_neg (mt r.fits_iff.mp (by omega))

/-! ## The run of an ENCODE -/

/-- Settles O21: the packet loop over legal packets, and what a read of OBUF gives after its write. -/
theorem encodeWritesTheConcatenatedPackets : Obligations.EncodeWritesTheConcatenatedPackets := by
  intro s rs hrun hcmd hpin hrs
  have haccept := acceptPackets_of_pinRecords s rs hpin fun r hr => r.fits_of_legal (hrs r hr)
  have hend : encodeRun s = .next (finishEncode (rs.flatMap packetBytes) { s with work := { s.work with
      k := kAfter s.work.k rs.length, blkIndex := blkAfterAll s.work.blkIndex rs } }) := by
    simp only [encodeRun, haccept, encodePackets_legal rs hrs]
  refine ⟨_, (step_running_encode s hrun hcmd).trans hend, rfl, rfl, fun a ha => ?_, fun a ha => ?_, rfl⟩
  · rw [finishEncode_obufLen] at ha
    rw [finishEncode_obuf, Store.read_write, if_pos ⟨Nat.zero_le a, by omega⟩, Nat.sub_zero]
  · rw [finishEncode_obufLen] at ha
    rw [finishEncode_obuf, Store.read_write, if_neg (by omega)]

/-- Settles O22: the packet loop ends at the first packet whose ENCODE_RR raises. -/
theorem encodeRaisesAtTheFirstBlockOutOfRange : Obligations.EncodeRaisesAtTheFirstBlockOutOfRange := by
  intro s before after r good bad b hrun hcmd hpin hlen hbefore hr hgood hb
  have haccept := acceptPackets_of_pinRecords s _ hpin fun q hq => q.fits_iff.mpr (hlen q hq)
  rw [step_running_encode s hrun hcmd]
  simp only [encodeRun, haccept,
    encodePackets_outOfRange before after r _ hbefore (encodeRr_outOfRange r good bad b hr hgood hb), Nat.zero_add]
  rfl

end Sys2Proof.PacketCodecProofs
end

section
/-! PROOFS of the statements of 42_report_block_codec.md. The codec's functions as PacketCodecProofs has them
(`trunc24_inRange`, `encodeBlock_inRange` and their inverses), with what is still missing: a field of the block as the bytes at
its place (`slice_toList`), the counter as a number (`sext24_eq_beNat`), and the two ways that TRUNC24 and ENCODE_BLOCK end: with
their bytes in RET (`exec_trunc24_some`, `exec_encodeBlock_some`), or with OutOfRange (`raiseOutOfRange_outcome`). -/

namespace Sys2Proof.Machine

open Sys2Proof.Statements

/-! ## The loss counter -/

/-- SEXT24 by the number that the three bytes stand for (R12, R192). -/
theorem sext24_eq_beNat (r : List Byte) (h : r.length = 3) :
    sext24 r = if (beNat r : Int) < 8388608 then (beNat r : Int) else (beNat r : Int) - 16777216 := by
  obtain ⟨a, b, c, rfl⟩ := List.length_eq_three.mp h
  have hvalue : (beNat [a, b, c] : Int) = a.toNat * 65536 + b.toNat * 256 + c.toNat := by
    simp only [beNat, List.foldl_cons, List.foldl_nil]
    omega
  rw [sext24_eq_signed24, hvalue]
  rfl

/-- SEXT24 keeps the order of two triples in the same half (R197). -/
theorem sext24_lt_sext24 (q r : List Byte) (hq : q.length = 3) (hr : r.length = 3) (hlt : beNat q < beNat r)
    (hhalf : beNat r ≤ 0x7FFFFF ∨ 0x800000 ≤ beNat q) : sext24 q < sext24 r := by
  rw [sext24_eq_beNat q hq, sext24_eq_beNat r hr]
  obtain hlower | hupper := hhalf
  · rw [if_pos (by omega), if_pos (by omega)]
    omega
  · rw [if_neg (by omega), if_neg (by omega)]
    omega

/-- SEXT24's value is narrowed back to its bytes (R197). -/
theorem trunc24_sext24 (r : List Byte) (h : r.length = 3) : trunc24 (sext24 r) = some r := by
  obtain ⟨hlo, hhi⟩ := sext24_inRange r h
  rw [trunc24_inRange _ hlo hhi, bytes24_sext24 r h]

/-! ## The report block -/

/-- A slice of a vector's bytes begins with the byte at its place (R11). -/
theorem slice_toList {m : Nat} (b : Vector Byte m) (a n : Nat) (h : a < m) :
    slice b.toList a (n + 1) = b[a] :: slice b.toList (a + 1) n := by
  rw [slice, List.drop_eq_getElem_cons (by simpa using h), List.take_succ_cons, Vector.getElem_toList, slice]

/-- A four-byte field is the word of the four bytes from its place on (R12, R88). -/
theorem beU32_slice_toList {m : Nat} (b : Vector Byte m) (a : Nat) (h : a + 3 < m) :
    beU32 (slice b.toList a 4) = word32 b[a] b[a + 1] b[a + 2] b[a + 3] := by
  rw [slice_toList b a 3 (by omega), slice_toList b (a + 1) 2 (by omega), slice_toList b (a + 2) 1 (by omega),
    slice_toList b (a + 3) 0 h]
  exact beU32_eq_word32 _ _ _ _

/-- DECODE_BLOCK reads each field from its place (R88, R191). -/
theorem decodeBlock_toList (b : Vector Byte 24) : decodeBlock b.toList =
    { ssrc := word32 b[0] b[1] b[2] b[3]
      fractionLost := b[4]
      packetsLost := signed24 b[5] b[6] b[7]
      highestSequence := word32 b[8] b[9] b[10] b[11]
      jitter := word32 b[12] b[13] b[14] b[15]
      lsr := word32 b[16] b[17] b[18] b[19]
      dlsr := word32 b[20] b[21] b[22] b[23] } := by
  have hfraction : beU8 (slice b.toList 4 1) = b[4] := by
    rw [slice_toList b 4 0 (by omega)]
    exact beU8_singleton b[4]
  have hlost : sext24 (slice b.toList 5 3) = signed24 b[5] b[6] b[7] := by
    rw [slice_toList b 5 2 (by omega), slice_toList b 6 1 (by omega), slice_toList b 7 0 (by omega)]
    exact sext24_eq_signed24 b[5] b[6] b[7]
  simp only [decodeBlock, hfraction, hlost, beU32_slice_toList b 0 (by omega), beU32_slice_toList b 8 (by omega),
    beU32_slice_toList b 12 (by omega), beU32_slice_toList b 16 (by omega), beU32_slice_toList b 20 (by omega)]

/-- The counter of a decoded block is in range (R193). -/
theorem decodeBlock_inRange (l : List Byte) (h : l.length = 24) : (decodeBlock l).inRange = true :=
  (decodeBlock l).inRange_iff.mpr (sext24_inRange _ (slice_length l 5 3 (by omega)))

/-- ENCODE_BLOCK takes back DECODE_BLOCK's block (R197). -/
theorem encodeBlock_decodeBlock (l : List Byte) (h : l.length = 24) : encodeBlock (decodeBlock l) = some l := by
  rw [encodeBlock_inRange _ (decodeBlock_inRange l h), blockBytes_decodeBlock l h]

/-- ENCODE_BLOCK gives nothing for a counter out of range (R194, R196). -/
theorem encodeBlock_outside (b : ReportBlock) (h : b.packetsLost < -8388608 ∨ 8388607 < b.packetsLost) :
    encodeBlock b = none := by
  rw [encodeBlock, trunc24_outside _ h]

/-! ## How TRUNC24 and ENCODE_BLOCK end -/

/-- Raising OutOfRange ends in the error state of R230, at the packet and block under encoding (R226). -/
theorem raiseOutOfRange_outcome (s : State) (blk : BitVec 5) (hb : s.work.blkIndex = some blk) :
    (raiseOutOfRange s).outcome = .next (encodeErrorState s.work.k blk s.work s) := by
  rw [raiseOutOfRange_eq s blk hb]
  rfl

theorem exec_trunc24_some (v : Int) (s : State) (l : List Byte) (h : trunc24 v = some l) :
    exec (.trunc24 v) s = .next { s with ret := some (.bytes l) } := by
  change execTrunc24 v s = _
  rw [execTrunc24, h]
  rfl

theorem exec_trunc24_none (v : Int) (s : State) (h : trunc24 v = none) :
    exec (.trunc24 v) s = (raiseOutOfRange s).outcome := by
  change execTrunc24 v s = _
  rw [execTrunc24, h]

theorem exec_encodeBlock_some (b : ReportBlock) (s : State) (l : List Byte) (h : encodeBlock b = some l) :
    exec (.encodeBlock b) s = .next { s with ret := some (.bytes l) } := by
  change execEncodeBlock b s = _
  rw [execEncodeBlock, h]
  rfl

theorem exec_encodeBlock_none (b : ReportBlock) (s : State) (h : encodeBlock b = none) :
    exec (.encodeBlock b) s = (raiseOutOfRange s).outcome := by
  change execEncodeBlock b s = _
  rw [execEncodeBlock, h]

end Sys2Proof.Machine

namespace Sys2Proof.BlockCodecProofs

open Sys2Proof.Machine Sys2Proof.Statements

/-! ## Internal operations -/

/-- Settles O23: SEXT24's value is `sext24_eq_signed24`. -/
theorem sext24GivesTheSignedValue : Obligations.Sext24GivesTheSignedValue := by
  intro b0 b1 b2 s
  rw [← sext24_eq_signed24]
  rfl

/-- Settles O24: in range by `trunc24_inRange`, outside by `trunc24_outside`. -/
theorem trunc24NarrowsOrRaises : Obligations.Trunc24NarrowsOrRaises := by
  intro v s
  constructor
  · intro hlo hhi
    exact exec_trunc24_some v s _ (trunc24_inRange v hlo hhi)
  · intro blk hv hb
    rw [exec_trunc24_none v s (trunc24_outside v hv), raiseOutOfRange_outcome s blk hb]

/-- Settles O25: the block that DECODE_BLOCK hands back is `decodeBlock_toList`. -/
theorem decodeBlockReadsTheFields : Obligations.DecodeBlockReadsTheFields := by
  intro b s
  rw [← decodeBlock_toList]
  rfl

/-- Settles O26: in range by `encodeBlock_inRange`, outside by `encodeBlock_outside`. -/
theorem encodeBlockWritesTheFieldsOrRaises : Obligations.EncodeBlockWritesTheFieldsOrRaises := by
  intro b s
  constructor
  · intro hlo hhi
    exact exec_encodeBlock_some b s _ (encodeBlock_inRange b (b.inRange_iff.mpr ⟨hlo, hhi⟩))
  · intro blk hv hb
    rw [exec_encodeBlock_none b s (encodeBlock_outside b hv), raiseOutOfRange_outcome s blk hb]

/-! ## Laws of the codec -/

/-- Settles O30: the four inverses and the order, each a lemma of its own. -/
theorem blockCodecIsInverse : Obligations.BlockCodecIsInverse := by
  refine ⟨fun r hr => ?_, fun v hlo hhi => ?_, encodeBlock_decodeBlock, fun k hlo hhi => ?_, sext24_lt_sext24⟩
  · obtain ⟨hlo, hhi⟩ := sext24_inRange r hr
    exact ⟨hlo, hhi, trunc24_sext24 r hr⟩
  · exact ⟨bytes24 v, trunc24_inRange v hlo hhi, rfl, sext24_bytes24 v hlo hhi⟩
  · have hk := k.inRange_iff.mpr ⟨hlo, hhi⟩
    exact ⟨blockBytes k, encodeBlock_inRange k hk, blockBytes_length k, decodeBlock_blockBytes k hk⟩

/-- Settles O31: the invariant keeps every report in OUT legal (R41, R193), and a block in range is encoded. -/
theorem decodedCounterIsInRange : Obligations.DecodedCounterIsInRange := by
  refine ⟨sext24_inRange, fun s r k hs hr hk => ?_⟩
  obtain ⟨-, hblocks⟩ := r.legal_iff.mp (hs.outLegal _ hr)
  obtain ⟨hlo, hhi⟩ := k.inRange_iff.mp (hblocks k hk)
  exact ⟨hlo, hhi, _, encodeBlock_inRange k (hblocks k hk)⟩

end Sys2Proof.BlockCodecProofs
end

section
/-! PROOFS of the statements of 60_exceptions.md. A DECODE raises in its packet step: the header and bounds checks of
`packetStep_eq`, and behind them `packetStep_next`, which leaves the dispatcher as the one place where a row can raise
InvalidReceiverReportLength. An ENCODE raises at the first block out of range (`step_encode_raised`); where that block stands in
PIN is `pinRecord_iff`. -/

namespace Sys2Proof.Machine

open Sys2Proof.Statements

/-! ## Errors of a packet step -/

/-- A header of another version raises InvalidVersion before CUR moves, whatever its length (R125, R223). -/
theorem exec_invalidVersion (i : Instr) (h : Header) (s : State) (c n : Nat) (hi : i.header = some h) (hv : h.v ≠ 2#2)
    (hat : AtPacket s c n) :
    exec i s = .next (decodeErrorState .invalidVersion c n { s.work with pktStart := some c, hdr := some h } s) := by
  obtain ⟨hc, hn, h4⟩ := hat
  rw [exec_packet i h s hi, packetStep_eq h _ s c n hc hn, if_neg (by omega), if_pos hv]
  rfl

/-- The next states of a packet row (R123 to R141): framing raises an error of its own, or the dispatcher sees the trimmed
payload. -/
theorem packetStep_next (i : Instr) (h : Header) (s t : State) (e : packetStep h (dispatcher i h) s = .next t) :
    ∃ c n, s.work.cur = some c ∧ s.work.pktIndex = some n ∧
      ((∃ k, k ≠ .invalidReceiverReportLength ∧ PacketRaised s t c n k) ∨
        ∃ m, c + 4 + m ≤ s.ibufLen ∧
          ((dispatcher i h (payloadSliced s h c (c + 4 + m))).andThen endPacket).outcome = .next t) := by
  cases hc : s.work.cur with
  | none =>
    rw [packetStep_noCur h _ s hc] at e
    cases e
  | some c =>
    cases hn : s.work.pktIndex with
    | none =>
      rw [packetStep_noPktIndex i h s c hc hn] at e
      cases e
    | some n =>
      refine ⟨c, n, rfl, rfl, ?_⟩
      rw [packetStep_eq h _ s c n hc hn] at e
      split at e
      · cases e
        exact .inl ⟨.truncated, by simp, _, rfl⟩
      split at e
      · cases e
        exact .inl ⟨.invalidVersion, by simp, _, rfl⟩
      split at e
      · cases e
        exact .inl ⟨.truncated, by simp, _, rfl⟩
      cases ht : trimPayload h (ibufBytes s (c + 4) (payloadSize h)) with
      | none =>
        rw [ht] at e
        cases e
        exact .inl ⟨.invalidPadding, by simp, _, rfl⟩
      | some trimmed =>
        rw [ht] at e
        obtain ⟨hm, -⟩ := trimPayload_ibufBytes s h _ _ _ ht
        exact .inr ⟨trimmed.length, by omega, e⟩

/-- Every row but RR is skipped, or never reaches the dispatcher (R135 to R140). -/
theorem dispatcher_of_not_rr (i : Instr) (h : Header) (hi : ∀ p n l, i ≠ .rr p n l) : dispatcher i h = skipPacket h.pt := by
  cases i with
  | rr p n l => exact absurd rfl (hi p n l)
  | _ => rfl

/-! ## The first block out of range -/

/-- A list meets a check throughout, or has a first element that fails it. -/
theorem forall_or_first_false {α : Type} (check : α → Bool) (l : List α) :
    (∀ x ∈ l, check x = true) ∨
      ∃ before x after, l = before ++ x :: after ∧ (∀ y ∈ before, check y = true) ∧ check x = false := by
  cases hfind : l.find? (fun x => !check x) with
  | none => exact .inl (by simpa using hfind)
  | some x =>
    obtain ⟨hx, before, after, hl, hbefore⟩ := List.find?_eq_some_iff_append.mp hfind
    exact .inr ⟨before, x, after, hl, by simpa using hbefore, by simpa using hx⟩

/-- Block `b` is the first out of range of an ENCODE of `rs`: it follows the blocks `good` in the packet `r`, which follows
the packets `before` (R170, R226). -/
structure FirstOutOfRange (rs before : List ReceiverReport) (r : ReceiverReport) (good : List ReportBlock) (b : ReportBlock) :
    Prop where
  packets : ∃ after, rs = before ++ r :: after
  legal : ∀ q ∈ before, q.legal = true
  blocks : ∃ bad, r.reports = good ++ b :: bad
  inRange : ∀ g ∈ good, g.inRange = true
  outside : b.inRange = false

/-- Reports that R171 admits are all legal, or one of their blocks is the first out of range. -/
theorem legal_or_firstOutOfRange (rs : List ReceiverReport) (hfits : ∀ r ∈ rs, r.fits = true) :
    (∀ r ∈ rs, r.legal = true) ∨ ∃ before r good b, FirstOutOfRange rs before r good b := by
  rcases forall_or_first_false ReceiverReport.legal rs with hall | ⟨before, r, after, hrs, hbefore, hr⟩
  · exact .inl hall
  · have hlen : r.reports.length ≤ 31 := r.fits_iff.mp (hfits r (by simp [hrs]))
    rcases forall_or_first_false ReportBlock.inRange r.reports with hblocks | ⟨good, b, bad, hreports, hgood, hb⟩
    · simp [r.legal_iff.mpr ⟨hlen, hblocks⟩] at hr
    · exact .inr ⟨before, r, good, b, ⟨after, hrs⟩, hbefore, ⟨bad, hreports⟩, hgood, hb⟩

/-- An ENCODE that raises has a first block out of range, and its error names it (R172, R226). -/
theorem step_encode_raised (s t : State) (rs : List ReceiverReport) (hrun : Running s) (hcmd : s.cmd = 2)
    (hpin : pinRecords s = rs.map .receiverReport) (hfits : ∀ r ∈ rs, r.fits = true) (e : step s = .next t)
    (herr : t.status = .error) :
    ∃ before r good b w, FirstOutOfRange rs before r good b ∧
      t = encodeErrorState before.length (BitVec.ofNat 5 good.length) w s := by
  rcases legal_or_firstOutOfRange rs hfits with hall | ⟨before, r, good, b, hfirst⟩
  · obtain ⟨u, hu, hdone, -⟩ := PacketCodecProofs.encodeWritesTheConcatenatedPackets s rs hrun hcmd hpin hall
    cases hu.symm.trans e
    simp [hdone] at herr
  · obtain ⟨after, rfl⟩ := hfirst.packets
    obtain ⟨bad, hreports⟩ := hfirst.blocks
    have hraised := PacketCodecProofs.encodeRaisesAtTheFirstBlockOutOfRange s before after r good bad b hrun hcmd hpin
      (fun q hq => q.fits_iff.mp (hfits q hq)) hfirst.legal hreports hfirst.inRange hfirst.outside
    cases hraised.symm.trans e
    exact ⟨before, r, good, b, _, hfirst, rfl⟩

theorem pinRecords_getElem? (s : State) (k : Nat) :
    (pinRecords s)[k]? = if k < s.pinCount then some (pinRecord s k) else none := by
  by_cases hk : k < s.pinCount <;> simp [pinRecords, hk]

/-- Where the Receiver Reports that ENCODE takes stand in PIN. -/
theorem pinRecord_iff (s : State) (rs : List ReceiverReport) (hpin : pinRecords s = rs.map .receiverReport) (k : Nat)
    (r : ReceiverReport) : rs[k]? = some r ↔ k < s.pinCount ∧ pinRecord s k = .receiverReport r := by
  have hrecord : rs[k]? = some r ↔ (rs.map Packet.receiverReport)[k]? = some (.receiverReport r) := by simp
  rw [hrecord, ← hpin, pinRecords_getElem?]
  simp

/-- ERR_BLK holds the number of a block out of range: a packet that R171 admits has at most 31 (R226). -/
theorem FirstOutOfRange.block_lt {rs before : List ReceiverReport} {r : ReceiverReport} {good : List ReportBlock}
    {b : ReportBlock} (h : FirstOutOfRange rs before r good b) (hfits : ∀ q ∈ rs, q.fits = true) : good.length < 31 := by
  obtain ⟨after, rfl⟩ := h.packets
  obtain ⟨bad, hreports⟩ := h.blocks
  have hlen : r.reports.length ≤ 31 := r.fits_iff.mp (hfits r (by simp))
  rw [hreports, List.length_append, List.length_cons] at hlen
  omega

/-- A block that is the first out of range stands in PIN, with every block before it in range (R226). -/
theorem FirstOutOfRange.in_pin {s : State} {rs before : List ReceiverReport} {r : ReceiverReport} {good : List ReportBlock}
    {b : ReportBlock} (h : FirstOutOfRange rs before r good b) (hpin : pinRecords s = rs.map .receiverReport) :
    before.length < s.pinCount ∧ pinRecord s before.length = .receiverReport r ∧ r.reports[good.length]? = some b ∧
      (∀ m q, m < before.length → pinRecord s m = .receiverReport q → ∀ g ∈ q.reports, g.inRange = true) ∧
      (∀ i g, i < good.length → r.reports[i]? = some g → g.inRange = true) := by
  obtain ⟨after, hrs⟩ := h.packets
  obtain ⟨bad, hreports⟩ := h.blocks
  obtain ⟨hlt, hrec⟩ := (pinRecord_iff s rs hpin before.length r).mp (by simp [hrs])
  refine ⟨hlt, hrec, by simp [hreports], fun m q hm hq => ?_, fun i g hi hg => ?_⟩
  · have hget := (pinRecord_iff s rs hpin m q).mpr ⟨by omega, hq⟩
    rw [hrs, List.getElem?_append_left hm] at hget
    exact (q.legal_iff.mp (h.legal q (List.mem_of_getElem? hget))).2
  · rw [hreports, List.getElem?_append_left hi] at hg
    exact h.inRange g (List.mem_of_getElem? hg)

end Sys2Proof.Machine

namespace Sys2Proof.ExceptionProofs

open Sys2Proof.Machine Sys2Proof.Statements

/-- Settles O8: the first cause is step 1 of the packet step; the second is the bounds check of the row of the header at
CUR. -/
theorem truncatedHasTwoCauses : Obligations.TruncatedHasTwoCauses := by
  intro s c n hrun hcmd hc hn
  constructor
  · intro hsome hshort
    rw [step_running_decode s c hrun hcmd hc, if_pos (by omega), fetchPacket_short s c n hc hn (by omega)]
    rfl
  · intro h h4 hh hv hlong
    subst hh
    have hat : AtPacket s c n := ⟨hc, hn, h4⟩
    rw [step_atPacket s c n hrun hcmd hat]
    exact (ReaderProofs.boundsCheckAndSlice _ (headerAt s c) s c n (headerAt s c).toInstr_view.1 hv hat).1 hlong

/-- Settles O14: DECODE_RR rejects the size; a row that is not RR is skipped, which does not raise, and framing raises other
kinds. -/
theorem wrongReceiverReportLengthRaises : Obligations.WrongReceiverReportLengthRaises := by
  constructor
  · intro p count length h s c n m hh hat hin ht hm
    subst hh
    obtain ⟨hle, htrim⟩ := trimPayload_trimmedTo s _ c m ht
    obtain ⟨-, hn, -⟩ := id hat
    obtain ⟨-, hl⟩ := (payloadInside_iff s _ c).mp hin
    have hreject : decodeRr (ibufBytes s (c + 4) m) count = none := by
      obtain ⟨hsize, -⟩ | ⟨-, hnone⟩ := decodeRr_cases (ibufBytes s (c + 4) m) count
      · exact absurd (by simpa using hsize) hm
      · exact hnone
    rw [exec_packet _ _ s rfl, packetStep_trimmed _ _ s c n m hat hin htrim]
    refine (dispatchRr_raises s _ c n m hn (by omega) hreject).trans ?_
    rw [payloadSliced, payloadSize_eq]
    rfl
  · intro i h s t hi hnot e
    rw [exec_packet i h s hi] at e
    obtain ⟨c, n, -, hn, ⟨k, hk, w, rfl⟩ | ⟨m, hl, e⟩⟩ := packetStep_next i h s t e
    · exact .inr (by simpa using hk)
    · rw [dispatcher_of_not_rr i h hnot, skipPacket_completes s h h.pt c n m hn hl] at e
      cases e
      exact .inl rfl

/-- Settles O15: none of the three versions is 2. -/
theorem illegalVersionsRaiseInvalidVersion : Obligations.IllegalVersionsRaiseInvalidVersion :=
  fun _ _ _ _ s c n hat => ⟨exec_invalidVersion _ _ s c n rfl (by simp) hat, exec_invalidVersion _ _ s c n rfl (by simp) hat,
    exec_invalidVersion _ _ s c n rfl (by simp) hat⟩

/-- Settles O50: of the next states of a running operation, those in ERROR are `raiseError` at the packet under validation and
`encodeErrorState` at the first block out of range. -/
theorem errorsLeaveNoPartialResult : Obligations.ErrorsLeaveNoPartialResult := by
  intro s t hinv hrun e herr
  obtain ⟨hbusy, hwaits⟩ := id hrun
  rcases hinv.operation (by simp [hbusy]) with hcmd | hcmd
  · rw [step_running s hbusy hwaits, sequencer_decode s hcmd] at e
    obtain ⟨c, hc, ⟨-, rfl⟩ | ⟨n, hn, ⟨size, recs, hdone, -⟩ | ⟨k, hk, w, rfl⟩⟩⟩ := decodeRun_next s t e
    · simp at herr
    · rw [hdone.frame] at herr
      simp [hbusy] at herr
    · exact ⟨rfl, rfl, fun _ => rfl, fun _ => rfl, rfl, rfl, fun _ => ⟨c, n, k, hc, hn, rfl, hk⟩,
        fun h2 => by simp [hcmd] at h2⟩
  · obtain ⟨rs, haccept⟩ := hinv.accepted hbusy hcmd
    obtain ⟨hpin, hfits⟩ := acceptPackets_sound _ rs 0 haccept
    obtain ⟨before, r, good, b, w, hfirst, rfl⟩ := step_encode_raised s t rs hrun hcmd hpin hfits e herr
    obtain ⟨hlt, hrec, hblock, hpackets, hblocks⟩ := hfirst.in_pin hpin
    exact ⟨rfl, rfl, fun _ => rfl, fun _ => rfl, rfl, rfl, fun h1 => by simp [hcmd] at h1,
      fun _ => ⟨before.length, good.length, r, b, hlt, hrec, hblock, hfirst.outside, rfl,
        hfirst.block_lt hfits, hpackets, hblocks⟩⟩

end Sys2Proof.ExceptionProofs
end
